-- ==== Sys2Proof/Word.lean ====
section
/-! DEFINITION. The bit vectors of SEQ: command word (R45), coil pattern and ROM word (R31), phase index (R10), step delta (R48). -/

namespace Sys2Proof

/-- The command word `cmd[3:0]` (R45). -/
abbrev Cmd := BitVec 4

/-- A coil pattern, as on `coil[3:0]` and in a ROM word: bit 3 is A1, bit 2 A2, bit 1 B1, bit 0 B2, and 1 is HIGH (R19, R31). -/
abbrev Pattern := BitVec 4

/-- The phase index `phase[1:0]`, which is also the ROM address (R10, R30). -/
abbrev Phase := BitVec 2

/-- The field `delta[1:0]` of a command, a two's-complement number (R48). -/
abbrev Delta := BitVec 2

end Sys2Proof
end

