-- ==== Sys2Proof/Config.lean ====
section
/-! DEFINITION. What a build of SEQ fixes (the ROM, R5, R30) and what the spec leaves free (the host's inputs, R4).
`F_CLK` and `T_STEP_MIN` (R5) are read by no rule and have no definition here (log 7). -/

namespace Sys2Proof

/-- The contents of the commutation ROM: four words at the addresses 0 to 3 (R30). A configuration constant: whatever
needs one takes it as an argument, so that what is said of it holds for every build (log 4). -/
structure Rom where
  word0 : Pattern
  word1 : Pattern
  word2 : Pattern
  word3 : Pattern
  deriving DecidableEq, Repr

/-- FREE VALUE. What host `h` drives on its block's `rst` in cycle `t` where the block's schedule says nothing (R4, R18; log 2).
Each block of several has a host of its own (R91; log 14). -/
opaque Config.hostRst (h t : Nat) : Bool

/-- FREE VALUE. What host `h` drives on its block's `cmd` in cycle `t` where the block's schedule says nothing (R4, R18; log 2). -/
opaque Config.hostCmd (h t : Nat) : Cmd

end Sys2Proof
end

