-- ==== Sys2Proof/Machine/Rom.lean ====
section
/-! DEFINITION. Reading the commutation ROM (R30 to R32) and the validity of its contents (R33 to R37). -/

namespace Sys2Proof

/-- `RomRead(i)`: the word at address `i`; every 2-bit address names an entry, so no read fails (R32, R39). -/
def Rom.read (rom : Rom) (i : Phase) : Pattern :=
  if i = 0#2 then rom.word0
  else if i = 1#2 then rom.word1
  else if i = 2#2 then rom.word2
  else rom.word3

/-- `a(w) = w[3:2]`, the legs (A1, A2) of coil A (R31, and section 2 of 20_memory.md). -/
def pairA (w : Pattern) : BitVec 2 := w.extractLsb' 2 2

/-- `b(w) = w[1:0]`, the legs (B1, B2) of coil B (R31, and section 2 of 20_memory.md). -/
def pairB (w : Pattern) : BitVec 2 := w.extractLsb' 0 2

/-- A coil's bridge is not shorted: its two legs are not both HIGH (R33). -/
abbrev NoShort (w : Pattern) : Prop := pairA w ≠ 0b11#2 ∧ pairB w ≠ 0b11#2

/-- Exactly one leg of the pair is HIGH, so the coil has a polarity (R34). -/
abbrev HasPolarity (p : BitVec 2) : Prop := p = 0b10#2 ∨ p = 0b01#2

/-- The two words differ in exactly one coil's pair (R35). -/
abbrev DifferInOneCoil (w w' : Pattern) : Prop :=
  (pairA w ≠ pairA w' ∧ pairB w = pairB w') ∨ (pairA w = pairA w' ∧ pairB w ≠ pairB w')

/-- V1, no shorted bridge (R33). -/
abbrev Rom.V1 (rom : Rom) : Prop := ∀ i : Phase, NoShort (rom.read i)

/-- V2, both coils driven (R34). -/
abbrev Rom.V2 (rom : Rom) : Prop := ∀ i : Phase, HasPolarity (pairA (rom.read i)) ∧ HasPolarity (pairB (rom.read i))

/-- V3, one coil flips per step, the wrap from entry 3 to entry 0 included (R35). -/
abbrev Rom.V3 (rom : Rom) : Prop := ∀ i : Phase, DifferInOneCoil (rom.read i) (rom.read (i + 1#2))

/-- V4, four different states (R36). -/
abbrev Rom.V4 (rom : Rom) : Prop := ∀ i j : Phase, i ≠ j → rom.read i ≠ rom.read j

/-- `RomValid(ROM)`, the conjunction of R33 to R36. -/
abbrev RomValid (rom : Rom) : Prop := rom.V1 ∧ rom.V2 ∧ rom.V3 ∧ rom.V4

/-- `ROM_DEFAULT`, table T0 of R37. PRESUMED by the spec (G1: general knowledge, not in its source): used in tests and
witnesses only, and no meaning reads it (log 4). -/
def romDefault : Rom := ⟨0b1010#4, 0b0110#4, 0b0101#4, 0b1001#4⟩

/-- The eight admissible tables T0 to T7 as R37 lists them. -/
def admissibleTables : List Rom :=
  [romDefault,
   ⟨0b0110#4, 0b0101#4, 0b1001#4, 0b1010#4⟩,
   ⟨0b0101#4, 0b1001#4, 0b1010#4, 0b0110#4⟩,
   ⟨0b1001#4, 0b1010#4, 0b0110#4, 0b0101#4⟩,
   ⟨0b1010#4, 0b1001#4, 0b0101#4, 0b0110#4⟩,
   ⟨0b1001#4, 0b0101#4, 0b0110#4, 0b1010#4⟩,
   ⟨0b0101#4, 0b0110#4, 0b1010#4, 0b1001#4⟩,
   ⟨0b0110#4, 0b1010#4, 0b1001#4, 0b0101#4⟩]

end Sys2Proof
end

