-- ==== Sys2Proof/Syntax.lean ====
section
/-! DEFINITION. The commands of SEQ (spec/opcode_table.json, R50), what stands on the input ports in one cycle (R18), and the
pseudo-instructions of R55. -/

namespace Sys2Proof

/-- The six decode classes of the command word, one per row of the opcode table (R50). The bits that a class ignores (R52) are
not kept: every word of a class behaves alike (log 9). -/
inductive Instr where
  /-- `0xxx`, no operation invoked (R75). -/
  | idle
  /-- `1000`, the source's `step(0)` (R63). -/
  | stepInv0
  /-- `1001`, the source's `step(+1)` (R61). -/
  | stepCw
  /-- `1010`, the source's `step(2)` and `step(-2)` (R64). -/
  | stepInv2
  /-- `1011`, the source's `step(-1)` (R62). -/
  | stepCcw
  /-- `11xx`, the source's `stop()` (R70). -/
  | stop
  deriving DecidableEq, Repr

/-- The values on the input ports `rst` and `cmd` during one cycle; also one line of assembler text, whose prefix `rst` means
that `rst` is 1 (R18, R53). -/
structure Pins where
  rst : Bool
  cmd : Cmd
  deriving DecidableEq, Repr

/-- The two valid directions (R6). -/
inductive Direction where
  | clockwise
  | counterClockwise
  deriving DecidableEq, Repr

/-- The pseudo-instructions of R55. -/
inductive Pseudo where
  /-- `STEP d` for any integer `d`. -/
  | step (d : Int)
  /-- `NOP`. -/
  | nop
  /-- `WAIT n`. -/
  | wait (n : Nat)
  /-- `REV n` in one direction, each step followed by `WAIT k`. -/
  | rev (dir : Direction) (n k : Nat)
  deriving DecidableEq, Repr

end Sys2Proof
end

