-- ==== Sys2Proof/WellFormed.lean ====
section
/-! DEFINITION. The checks on what a reader of the model may write down: an instruction, a number offered as a command word, a
table offered as the ROM. -/

namespace Sys2Proof

/-- An instruction carries no operand (its `delta` is part of its class, R48, R50), so every one is well formed. -/
def Instr.wellFormed : Instr → Bool
  | .idle => true
  | .stepInv0 => true
  | .stepCw => true
  | .stepInv2 => true
  | .stepCcw => true
  | .stop => true

/-- A number can be presented on the 4-bit port `cmd` only if it fits (R45); R103 forbids truncating one that does not. -/
def wordFits (w : Nat) : Bool := decide (w < 16)

/-- A table may be built into SEQ only if it meets V1 to V4 (R33 to R36). -/
def Rom.wellFormed (rom : Rom) : Bool := decide (RomValid rom)

end Sys2Proof
end

