-- ==== Sys2Proof/Decode.lean ====
section
/-! DEFINITION. Decoding of the command word (R45 to R52), the encoder with the canonical words of R54, the opcode map as mask
and match (R50), the pseudo-instructions (R55) and the disassembler (R56). -/

namespace Sys2Proof

/-- Field `v`, `cmd[3]` (R46). -/
def cmdV (w : Cmd) : Bool := w.getLsbD 3

/-- Field `op`, `cmd[2]` (R47). -/
def cmdOp (w : Cmd) : Bool := w.getLsbD 2

/-- Field `delta`, `cmd[1:0]` (R48). -/
def cmdDelta (w : Cmd) : Delta := w.extractLsb' 0 2

/-- `step` with each of the four values of `delta` (R48, R50). -/
def decodeStep (d : Delta) : Instr :=
  if d = 0b00#2 then .stepInv0
  else if d = 0b01#2 then .stepCw
  else if d = 0b10#2 then .stepInv2
  else .stepCcw

/-- Decoding is total on the 16 words and no word is reserved (R50). -/
def decode (w : Cmd) : Instr :=
  if cmdV w = false then .idle
  else if cmdOp w then .stop
  else decodeStep (cmdDelta w)

/-- Why a number is no command. -/
inductive DecodeError where
  /-- The number does not fit the 4-bit port (R45). Safe: the hardware cannot be given it. -/
  | widerThanPort
  deriving DecidableEq, Repr

/-- Decode a number offered as a command word. -/
def decodeNat (w : Nat) : Except DecodeError Instr :=
  if wordFits w then .ok (decode (BitVec.ofNat 4 w)) else .error .widerThanPort

/-- The instruction this decoder reads from the low `nbits` bits of `w`; none where they are no command word. -/
def decodeTableWord (nbits w : Nat) : Option Instr :=
  match decodeNat (w % 2 ^ nbits) with
  | .ok i => some i
  | .error _ => none

/-- The canonical word of each class (R54). -/
def encode : Instr → Cmd
  | .idle => 0b0000#4
  | .stepInv0 => 0b1000#4
  | .stepCw => 0b1001#4
  | .stepInv2 => 0b1010#4
  | .stepCcw => 0b1011#4
  | .stop => 0b1100#4

/-- The mask column of R50: a word `w` selects a row when `w AND mask = match`. -/
def Instr.rowMask : Instr → Cmd
  | .idle => 0b1000#4
  | .stepInv0 => 0b1111#4
  | .stepCw => 0b1111#4
  | .stepInv2 => 0b1111#4
  | .stepCcw => 0b1111#4
  | .stop => 0b1100#4

/-- The match column of R50. -/
def Instr.rowMatch : Instr → Cmd
  | .idle => 0b0000#4
  | .stepInv0 => 0b1000#4
  | .stepCw => 0b1001#4
  | .stepInv2 => 0b1010#4
  | .stepCcw => 0b1011#4
  | .stop => 0b1100#4

/-- The mnemonic of each class (R54). -/
def Instr.mnemonic : Instr → String
  | .idle => "IDLE"
  | .stepInv0 => "STEP.INV0"
  | .stepCw => "STEP.CW"
  | .stepInv2 => "STEP.INV2"
  | .stepCcw => "STEP.CCW"
  | .stop => "STOP"

/-- What a disassembler prints: the class mnemonic, and whether the word is not canonical (R56). -/
def disassemble (w : Cmd) : String × Bool := ((decode w).mnemonic, decide (w ≠ encode (decode w)))

/-- The command a host sends for `step(d)`: the table of R55, in which every integer that the port cannot carry becomes an
invalid STEP (R49, R103; log 8). -/
def stepInstr (d : Int) : Instr :=
  if d = 1 then .stepCw
  else if d = -1 then .stepCcw
  else if d = 2 ∨ d = -2 then .stepInv2
  else .stepInv0

/-- The command of one step in a valid direction (R6). -/
def Direction.instr : Direction → Instr
  | .clockwise => .stepCw
  | .counterClockwise => .stepCcw

/-- The commands a pseudo-instruction stands for, one per cycle (R55). -/
def Pseudo.expand : Pseudo → List Instr
  | .step d => [stepInstr d]
  | .nop => [.idle]
  | .wait n => List.replicate n .idle
  | .rev dir n k => (List.replicate n (dir.instr :: List.replicate k .idle)).flatten

/-- One line of assembler text without the prefix `rst`: `rst` is 0 and `cmd` is the canonical word (R53, R54). -/
def Instr.line (i : Instr) : Pins := ⟨false, encode i⟩

/-- The lines of a pseudo-instruction (R53, R55). -/
def Pseudo.lines (p : Pseudo) : List Pins := p.expand.map Instr.line

end Sys2Proof
end

