-- ==== Sys2Proof/Machine/State.lean ====
section
/-! DEFINITION. The state of SEQ (10_state.md section 1), the input schedule it is run under, the reasons a step could stop, and
the state after reset (R26). -/

namespace Sys2Proof.Machine

/-- The one exception of SEQ (R80). It is a report, not a stop: raising it gives a next state (R81). -/
inductive Exn where
  /-- `step` with a direction outside +1 and -1. -/
  | invalidDirection
  deriving DecidableEq, Repr

/-- Why a step could stop the machine. There is no reason: `next` is total (10_state.md section 8) and SEQ never hangs or halts
(R107), so nobody raises one. Safe (log 6). -/
inductive Fault where
  deriving DecidableEq, Repr

/-- Why an instruction could have no meaning. -/
inductive Refusal where
  /-- Raised by an arm of `exec` for an instruction that has no meaning yet; no arm does. Safe. -/
  | notModelled (mnemonic : String)
  deriving DecidableEq, Repr

/-- The state in one cycle. `phase`, `en`, `emit`, `err` are the five bits of SEQ; `inputs`, `cycle` and `host` are the model's
own and say what the host drives (log 1, 2, 3, 14). -/
structure State where
  /-- The phase index (R10). -/
  phase : Phase
  /-- Energised: the last emission was a table pattern (R13). -/
  en : Bool
  /-- The command of the cycle before emitted a pattern (R14). -/
  emit : Bool
  /-- The command of the cycle before failed with InvalidDirection (R15). -/
  err : Bool
  /-- MODEL'S OWN. The port values that are settled for the current cycle (the head) and those after it (R16, R18; log 1). -/
  inputs : List Pins
  /-- MODEL'S OWN. The number of the current cycle (00_scope.md section 6; log 3). -/
  cycle : Nat
  /-- MODEL'S OWN. Which host drives this block's ports where `inputs` says nothing (R91; log 14). -/
  host : Nat
  deriving DecidableEq, Repr

/-- The machine right after reset (R26). No input is settled, so what the host then drives is free (log 1, 2, 3, 14). -/
def State.reset : State :=
  { phase := 0#2, en := false, emit := false, err := false, inputs := [], cycle := 0, host := 0 }

end Sys2Proof.Machine
end

