-- ==== Sys2Proof/Machine/Flags.lean ====
section
/-! DEFINITION. The three status bits and how a command leaves them (R13 to R15). SEQ has no condition codes (10_state.md section
3). Every command rewrites both strobes. -/

namespace Sys2Proof.Machine

/-- Neither strobe: the command emitted nothing and failed nothing. -/
def State.strobeNone (s : State) : State := { s with emit := false, err := false }

/-- The strobe of an emission (R14). -/
def State.strobeEmit (s : State) : State := { s with emit := true, err := false }

/-- The strobe of a failed call (R15). -/
def State.strobeErr (s : State) : State := { s with emit := false, err := true }

/-- Write `en` (R13). -/
def State.setEn (b : Bool) (s : State) : State := { s with en := b }

end Sys2Proof.Machine
end

