-- ==== Sys2Proof/Machine/Operands.lean ====
section
/-! DEFINITION. The only operand of any command, `delta` (R48), and the phase adder that takes it (R60). -/

namespace Sys2Proof.Machine

/-- `toInt2(delta)` (00_scope.md section 6). -/
def toInt2 (d : Delta) : Int := d.toInt

/-- A direction is valid exactly when it is +1 or -1 (R48). -/
def validDirection (d : Delta) : Bool := decide (toInt2 d = 1 ∨ toInt2 d = -1)

/-- The step delta of a direction: Clockwise is +1, CounterClockwise is -1 (R6, R48). -/
def directionDelta : Direction → Delta
  | .clockwise => 0b01#2
  | .counterClockwise => 0b11#2

/-- `phase +2 delta`: 2-bit addition, the carry out discarded (R60). -/
def phaseAdd (p : Phase) (d : Delta) : Phase := p + d

/-- The adder as R60 writes it in gates, bit 0. -/
def phaseAddBit0 (p : Phase) (d : Delta) : Bool := p.getLsbD 0 ^^ d.getLsbD 0

/-- The adder as R60 writes it in gates, bit 1. -/
def phaseAddBit1 (p : Phase) (d : Delta) : Bool :=
  (p.getLsbD 1 ^^ d.getLsbD 1) ^^ (p.getLsbD 0 && d.getLsbD 0)

/-- The clamp-and-wrap that the source says its own code used (R60): add, then 0 if above 3, 3 if below 0. -/
def clampAndWrap (p : Phase) (d : Delta) : Int :=
  if (p.toNat : Int) + toInt2 d > 3 then 0
  else if (p.toNat : Int) + toInt2 d < 0 then 3
  else (p.toNat : Int) + toInt2 d

end Sys2Proof.Machine
end

