-- ==== Sys2Proof/Machine/Ops.lean ====
section
/-! DEFINITION. The named operations of SEQ: reading the input ports, the end of a cycle, the reset edge, raising the exception,
the two emissions, and `step(direction)`. -/

namespace Sys2Proof.Machine

/-- The port values `j` cycles from now: those of the schedule, and where it says nothing, free values of the block's host (R4,
R18, R91; log 1, 2, 14). -/
def State.pinsAt (s : State) (j : Nat) : Pins :=
  match s.inputs[j]? with
  | some p => p
  | none => ⟨Config.hostRst s.host (s.cycle + j), Config.hostCmd s.host (s.cycle + j)⟩

/-- `rst(t)` of the current cycle (R18). -/
def State.rst (s : State) : Bool := (s.pinsAt 0).rst

/-- `cmd(t)` of the current cycle (R18). -/
def State.cmd (s : State) : Cmd := (s.pinsAt 0).cmd

/-- The cycle ends: the next port values become current. No register of SEQ changes. -/
def State.tick (s : State) : State := { s with inputs := s.inputs.tail, cycle := s.cycle + 1 }

/-- The host settles what the ports hold in the current cycle. -/
def State.present (p : Pins) (s : State) : State := { s with inputs := p :: s.inputs.tail }

/-- The same block with its ports wired to host `h` (R91; log 14). No register of SEQ changes, and no settled port value. -/
def State.drivenBy (h : Nat) (s : State) : State := { s with host := h }

/-- What an edge with `rst = 1` writes (R96). -/
def State.resetEdge (s : State) : State :=
  { s with phase := 0#2, en := false, emit := false, err := false }

/-- `raise InvalidDirection`: the report and nothing else (R81). SEQ has no handler, no saved state and no return (R87, R88). -/
def State.raise (e : Exn) (s : State) : State :=
  match e with
  | .invalidDirection => s.strobeErr

/-- The cause number a host may use for an exception (R82). -/
def Exn.cause : Exn → Nat
  | .invalidDirection => 1

/-- The cause that the output `err` reports: 0 none, 1 InvalidDirection (R82). -/
def State.cause (s : State) : Nat := if s.err then Exn.cause .invalidDirection else 0

/-- `Emit(ROM[phase'])` with `phase'` the new index: the coils are energised and show it from the next cycle (R19, R20, R61). -/
def State.emitTable (p : Phase) (s : State) : State := { s.strobeEmit.setEn true with phase := p }

/-- `Emit(0b0000)`: the coils are de-energised, the phase is kept (R70). -/
def State.emitLow (s : State) : State := s.strobeEmit.setEn false

/-- `step(direction)`: the adder's sum is written back and emitted only for a valid direction, and discarded otherwise (R60). -/
def State.stepBy (d : Delta) (s : State) : State :=
  if validDirection d then s.emitTable (phaseAdd s.phase d) else s.raise .invalidDirection

/-- What the edge makes of a command's outcome: its next state, in the next cycle. -/
def afterEdge : Host.Outcome State Fault Refusal → Host.Outcome State Fault Refusal
  | .next t => .next t.tick
  | .fault r => .fault r
  | .refused r => .refused r

end Sys2Proof.Machine
end

