-- ==== Sys2Proof/Machine/Idle.lean ====
section
/-! DEFINITION. IDLE (42_idle.md). -/

namespace Sys2Proof.Machine

/-- R75: both strobes are cleared; phase and en are kept. -/
def execIdle (s : State) : Host.Outcome State Fault Refusal := .next s.strobeNone

end Sys2Proof.Machine
end

