-- ==== Sys2Proof/Machine/StepFamily.lean ====
section
/-! DEFINITION. The STEP family (40_step.md): `step(direction)` with each value of `delta`. -/

namespace Sys2Proof.Machine

/-- R63: `delta = 00`, always InvalidDirection. -/
def execStepInv0 (s : State) : Host.Outcome State Fault Refusal := .next (s.stepBy 0b00#2)

/-- R61: `delta = 01`, Clockwise. -/
def execStepCw (s : State) : Host.Outcome State Fault Refusal := .next (s.stepBy 0b01#2)

/-- R64: `delta = 10`, always InvalidDirection. -/
def execStepInv2 (s : State) : Host.Outcome State Fault Refusal := .next (s.stepBy 0b10#2)

/-- R62: `delta = 11`, CounterClockwise. -/
def execStepCcw (s : State) : Host.Outcome State Fault Refusal := .next (s.stepBy 0b11#2)

end Sys2Proof.Machine
end

