-- ==== Sys2Proof/Machine/Stop.lean ====
section
/-! DEFINITION. STOP (41_stop.md). -/

namespace Sys2Proof.Machine

/-- R70: the all-LOW pattern is emitted; phase is kept. -/
def execStop (s : State) : Host.Outcome State Fault Refusal := .next s.emitLow

end Sys2Proof.Machine
end

