-- ==== Sys2Proof/Machine/Dispatch.lean ====
section
/-! DEFINITION. The effect of each command at an edge with rst = 0, one arm per row of the opcode table. -/

namespace Sys2Proof.Machine

/-- The effect of a command on the registers of SEQ; the input schedule is left to `step`. -/
def exec (i : Instr) (s : State) : Host.Outcome State Fault Refusal :=
  match i with
  | .idle => Sys2Proof.Machine.execIdle s
  | .stepInv0 => Sys2Proof.Machine.execStepInv0 s
  | .stepCw => Sys2Proof.Machine.execStepCw s
  | .stepInv2 => Sys2Proof.Machine.execStepInv2 s
  | .stepCcw => Sys2Proof.Machine.execStepCcw s
  | .stop => Sys2Proof.Machine.execStop s

end Sys2Proof.Machine
end

