-- ==== Sys2Proof/Machine/Step.lean ====
section
/-! DEFINITION. One rising edge of clk (R18, R86, R97), and placing a command where the next edge samples it. -/

namespace Sys2Proof.Machine

/-- One edge: with `rst = 1` the reset is taken and the word is not decoded (R97); with `rst = 0` the word is decoded and run. -/
def step (s : State) : Host.Outcome State Fault Refusal :=
  if s.rst then afterEdge (.next s.resetEdge) else afterEdge (exec (decode s.cmd) s)

/-- `s` with the command word `w` on `cmd` and 0 on `rst` in the current cycle, so that the next edge runs it (log 1). A number
that does not fit the port is not presented (R103; log 10). -/
def State.withFetchWord (s : State) (nbits w : Nat) : State :=
  if wordFits (w % 2 ^ nbits) then s.present ⟨false, BitVec.ofNat 4 (w % 2 ^ nbits)⟩ else s

end Sys2Proof.Machine
end

