-- ==== Sys2Proof/Machine/Outputs.lean ====
section
/-! DEFINITION. The output ports in one cycle: functions of the state and the constant ROM alone, a Moore machine (R19 to R22). -/

namespace Sys2Proof.Machine

/-- `coil[3:0]`, the output multiplexer (R19). -/
def State.coil (rom : Rom) (s : State) : Pattern := if s.en then rom.read s.phase else 0b0000#4

/-- The four output ports (R19 to R22). -/
structure Outputs where
  coil : Pattern
  emit : Bool
  err : Bool
  phaseO : Phase
  deriving DecidableEq, Repr

/-- `outputs(s)` of 10_state.md section 8. -/
def State.outputs (rom : Rom) (s : State) : Outputs :=
  { coil := s.coil rom, emit := s.emit, err := s.err, phaseO := s.phase }

end Sys2Proof.Machine
end

