-- ==== Sys2Proof/Machine/Run.lean ====
section
/-! DEFINITION. Runs of SEQ and what is observed of them: the cycles, the outputs (D25), the emission trace (R20), the error
reports (R21, R83). A run has no end of its own (R107): the number of edges is an argument. -/

namespace Sys2Proof.Machine

/-- The states of the cycles from the current one to the one after `k` edges. -/
def cycles : Nat → State → List State
  | 0, s => [s]
  | k + 1, s =>
    s :: match step s with
      | .next t => cycles k t
      | .fault _ => []
      | .refused _ => []

/-- The observable of a run: the output ports in each of its cycles (D25). -/
def observation (rom : Rom) (k : Nat) (s : State) : List Outputs := (cycles k s).map (State.outputs rom)

/-- What a call of the source does to the world: it hands a pattern to the sink, or it fails. -/
inductive Event where
  /-- `apply(pattern)`. -/
  | apply (p : Pattern)
  /-- The call failed with InvalidDirection. -/
  | invalidDirection
  deriving DecidableEq, Repr

/-- The events that one cycle's outputs report: an emission (R20), an error (R21). Both at once in no reachable state (R24; the
order is log 11). -/
def State.events (rom : Rom) (s : State) : List Event :=
  (if s.emit then [.apply (s.coil rom)] else []) ++ (if s.err then [.invalidDirection] else [])

/-- The call-level observable of a run: its emissions and error reports, in order (D25). -/
def callTrace (rom : Rom) (k : Nat) (s : State) : List Event := (cycles k s).flatMap (State.events rom)

/-- The emission trace: `coil` in the cycles with `emit = 1` (R20). -/
def emissionTrace (rom : Rom) (k : Nat) (s : State) : List Pattern :=
  ((cycles k s).filter State.emit).map (State.coil rom)

/-- How many cycles report an error (R21, R88). -/
def errorCount (k : Nat) (s : State) : Nat := (cycles k s).countP State.err

/-- The ghost flag of R83: the OR of `err` over the cycles of a run. -/
def errEver (k : Nat) (s : State) : Bool := (cycles k s).any State.err

/-- The class of the command presented `j` cycles from now. -/
def State.commandAt (s : State) (j : Nat) : Instr := decode (s.pinsAt j).cmd

/-- `rst` is 0 at each of the next `k` edges. -/
abbrev NoReset (k : Nat) (s : State) : Prop := ∀ j : Nat, j < k → (s.pinsAt j).rst = false

/-- How many of the next `k` commands are of class `i`. -/
def commandCount (i : Instr) (k : Nat) (s : State) : Nat :=
  (List.range k).countP fun j => decide (s.commandAt j = i)

/-- `s` with the port values of the cycles from now on settled as `ps`. -/
def State.schedule (ps : List Pins) (s : State) : State := { s with inputs := ps }

end Sys2Proof.Machine
end

