-- ==== Sys2Proof/Machine/Calls.lean ====
section
/-! DEFINITION. The source's Sequencer, a phase index and two operations, as the quotations in R48, R60, R61 and R70 give it,
and the hardware run of a sequence of calls (95_test_vectors.md section 1). It is written with integers, apart from the hardware
model, so that the one can be compared with the other (log 13). -/

namespace Sys2Proof.Machine

/-- The two operations (R1). -/
inductive Call where
  /-- `step(direction)`, for any integer. -/
  | step (d : Int)
  /-- `stop()`. -/
  | stop
  deriving DecidableEq, Repr

/-- The Sequencer's whole state: the phase index, an integer in the closed range [0, 3] (R10). -/
structure Sequencer where
  index : Int
  deriving DecidableEq, Repr

/-- A freshly created Sequencer (R26). -/
def sequencerCreate : Sequencer := ⟨0⟩

/-- One call: `step` with +1 or -1 moves the index modulo 4 and applies the entry at the new index; with any other integer it
fails and mutates nothing; `stop` applies the all-LOW pattern and keeps the index (R48, R60, R61, R70, R81). -/
def sequencerCall (rom : Rom) (c : Call) (q : Sequencer) : Sequencer × Event :=
  match c with
  | .step d =>
    if d = 1 ∨ d = -1 then
      (⟨(q.index + d) % 4⟩, .apply (rom.read (BitVec.ofInt 2 ((q.index + d) % 4))))
    else (q, .invalidDirection)
  | .stop => (q, .apply 0b0000#4)

/-- A sequence of calls: the Sequencer after it, and one event per call. -/
def sequencerCalls (rom : Rom) : List Call → Sequencer → Sequencer × List Event
  | [], q => (q, [])
  | c :: cs, q =>
    let r := sequencerCall rom c q
    let rest := sequencerCalls rom cs r.1
    (rest.1, r.2 :: rest.2)

/-- The command a host sends for a call (R54, R55). -/
def Call.instr : Call → Instr
  | .step d => stepInstr d
  | .stop => .stop

/-- The hardware run of a sequence of calls: each call's word, followed by that call's number of IDLE cycles (95_test_vectors.md
section 1). -/
def callLines (cs : List (Call × Nat)) : List Pins :=
  cs.flatMap fun c => c.1.instr.line :: List.replicate c.2 Instr.idle.line

end Sys2Proof.Machine
end

