-- ==== Sys2Proof/Machine/Instances.lean ====
section
/-! DEFINITION. Several SEQ blocks, one per motor, each with its own clock, `rst`, `cmd` and outputs (R91; log 12, 14). -/

namespace Sys2Proof.Machine

/-- `n` blocks right after reset, the ports of block `i` wired to host `i`. -/
def bankReset (n : Nat) : List State := (List.range n).map fun i => State.reset.drivenBy i

/-- A rising edge of the clock of block `i`, which samples the ports that host `i` drives and no other; none where there is no such
block or it stops. -/
def stepInstance (i : Nat) (bank : List State) : Option (List State) :=
  match bank[i]? with
  | none => none
  | some s =>
    match step (s.drivenBy i) with
    | .next t => some (bank.set i t)
    | .fault _ => none
    | .refused _ => none

/-- Rising edges of the blocks' clocks, in the order in which they happen. The order is the environment's: the clocks are
independent (R91). -/
def stepInstances : List Nat → List State → Option (List State)
  | [], bank => some bank
  | i :: edges, bank =>
    match stepInstance i bank with
    | none => none
    | some bank' => stepInstances edges bank'

/-- The output ports of block `i`, which has the ROM `roms i` (R5: one instance per motor). -/
def instanceOutputs (roms : Nat → Rom) (i : Nat) (bank : List State) : Option Outputs :=
  (bank[i]?).map (State.outputs (roms i))

end Sys2Proof.Machine
end

