-- ==== Sys2Proof/Safety.lean ====
section
/-! DEFINITION. The terms that claims about SEQ are stated in: its invariant (R24), the own hosts of a bank (R91), its registers as
one value, and the transition function of 10_state.md section 8, written from that section's text as a second definition to hold
`step` against. -/

namespace Sys2Proof.Machine

/-- The invariant of R24: `emit` and `err` are never both 1. -/
abbrev StrobesExclusive (s : State) : Prop := ¬(s.emit = true ∧ s.err = true)

/-- Each block of a bank has a host of its own: block `i` is driven by host `i`, so no two blocks share their ports (R91; log 14). -/
abbrev OwnHosts (bank : List State) : Prop := ∀ (i : Nat) (s : State), bank[i]? = some s → s.host = i

/-- The five bits of SEQ: phase, en, emit, err. -/
def State.registers (s : State) : Phase × Bool × Bool × Bool := (s.phase, s.en, s.emit, s.err)

/-- `next(s, rst, cmd)` of 10_state.md section 8, line by line. -/
def specNext (s : State) (rst : Bool) (cmd : Cmd) : Phase × Bool × Bool × Bool :=
  if rst = true then (0#2, false, false, false)
  else if cmd.getLsbD 3 = false then (s.phase, s.en, false, false)
  else if cmd.getLsbD 2 = true then (s.phase, false, true, false)
  else if cmd.getLsbD 0 = true then (s.phase + cmd.extractLsb' 0 2, true, true, false)
  else (s.phase, s.en, false, true)

/-- A run of `k` edges from `s` ends in `t`. -/
abbrev RunsTo (k : Nat) (s t : State) : Prop := Host.Core.run Sys2Proof.core k s = .next t

end Sys2Proof.Machine
end

