-- ==== Sys2Proof/Certificates/Slice0/Obligations.lean ====
section
/-! DEFINITION. The statements for the provers. A statement about a next state says that there is one. -/

open Sys2Proof Sys2Proof.Machine

/-! ## Encoding -/

/-- R50: the decode table, and its mask and match columns; each word selects exactly one row. -/
def Obligations.EveryWordDecodesByItsRow : Prop :=
  (∀ w : Cmd, w.getLsbD 3 = false → decode w = .idle) ∧
  decode 0b1000#4 = .stepInv0 ∧ decode 0b1001#4 = .stepCw ∧ decode 0b1010#4 = .stepInv2 ∧ decode 0b1011#4 = .stepCcw ∧
  (∀ w : Cmd, w.getLsbD 3 = true → w.getLsbD 2 = true → decode w = .stop) ∧
  (∀ (w : Cmd) (i : Instr), decode w = i ↔ w &&& i.rowMask = i.rowMatch)

/-- A few words written out from R50 and R54 decode to the instruction they stand for. -/
def Obligations.WrittenWordsDecode : Prop :=
  decode 0b0000#4 = .idle ∧ decode 0b0111#4 = .idle ∧ decode 0b1000#4 = .stepInv0 ∧ decode 0b1001#4 = .stepCw ∧
  decode 0b1010#4 = .stepInv2 ∧ decode 0b1011#4 = .stepCcw ∧ decode 0b1100#4 = .stop ∧ decode 0b1111#4 = .stop

/-- R46, R47: `v` selects between no call and a call, whatever the other bits are; `op` selects between `step` and `stop`. -/
def Obligations.FieldsSelectTheOperation : Prop :=
  ∀ (s : State) (w : Cmd),
    (cmdV w = false → exec (decode w) s = .next { s with emit := false, err := false }) ∧
    (cmdV w = true → cmdOp w = false → exec (decode w) s = .next (s.stepBy (cmdDelta w))) ∧
    (cmdV w = true → cmdOp w = true → exec (decode w) s = .next { s with en := false, emit := true, err := false })

/-- R48: `delta` is valid exactly when it is +1 or -1, that is when its bit 0 is 1; bit 1 is then the direction; and it is the
addend of the command, unextended. -/
def Obligations.DeltaIsValidityAndAddend : Prop :=
  toInt2 0b00#2 = 0 ∧ toInt2 0b01#2 = 1 ∧ toInt2 0b10#2 = -2 ∧ toInt2 0b11#2 = -1 ∧
  (∀ d : Delta, (validDirection d = true ↔ toInt2 d = 1 ∨ toInt2 d = -1) ∧ (validDirection d = d.getLsbD 0)) ∧
  (directionDelta .clockwise = 0b01#2 ∧ directionDelta .counterClockwise = 0b11#2) ∧
  (∀ p : Phase, phaseAdd p 0b11#2 = p - 1#2) ∧
  (∀ (w : Cmd) (s : State), cmdV w = true → cmdOp w = false →
    exec (decode w) s = .next (s.stepBy (cmdDelta w)) ∧
    (validDirection (cmdDelta w) = true →
      exec (decode w) s = .next { s with phase := s.phase + cmdDelta w, en := true, emit := true, err := false }))

/-- R49: the words of the integers that the port carries, and what truncation does to an odd integer. -/
def Obligations.PortCarriesTwoBitsOfAnInteger : Prop :=
  (∀ d : Int, -2 ≤ d → d ≤ 2 → encode (stepInstr d) = 0b10#2 ++ BitVec.ofInt 2 d) ∧
  (stepInstr 0 = .stepInv0 ∧ stepInstr 2 = .stepInv2 ∧ stepInstr (-2) = .stepInv2) ∧
  (∀ d : Int, d % 2 = 1 → decode (0b10#2 ++ BitVec.ofInt 2 d) = .stepCw ∨ decode (0b10#2 ++ BitVec.ofInt 2 d) = .stepCcw) ∧
  (∀ d : Int, d ≠ 1 → d ≠ -1 → stepInstr d = .stepInv0 ∨ stepInstr d = .stepInv2)

/-- R52: the canonical spellings, and that at an edge all IDLE words behave alike, and so do all STOP words. -/
def Obligations.IgnoredBitsDoNotMatter : Prop :=
  encode .idle = 0b0000#4 ∧ encode .stop = 0b1100#4 ∧ ∀ (s : State) (w w' : Cmd),
    (w.getLsbD 3 = false → w'.getLsbD 3 = false →
      step (s.present ⟨false, w⟩) = step (s.present ⟨false, w'⟩)) ∧
    (w.getLsbD 3 = true → w.getLsbD 2 = true → w'.getLsbD 3 = true → w'.getLsbD 2 = true →
      step (s.present ⟨false, w⟩) = step (s.present ⟨false, w'⟩))

/-- R56: encoding then decoding is the identity on classes; decoding then encoding gives the canonical word of the class, which
behaves the same; a disassembler prints the class mnemonic and can tell a word that is not canonical. -/
def Obligations.CanonicalWordsRoundTrip : Prop :=
  (∀ i : Instr, i.wellFormed = true ∧ decode (encode i) = i) ∧
  (∀ i : Instr, encode (decode (encode i)) = encode i) ∧
  (∀ (w : Cmd) (s : State), exec (decode (encode (decode w))) s = exec (decode w) s) ∧
  (∀ w : Cmd, (disassemble w).1 = (decode w).mnemonic ∧ ((disassemble w).2 = false ↔ ∃ i : Instr, w = encode i))

/-! ## One edge -/

/-- With `rst = 0` an edge is `exec` of the decoded command, after which the next cycle's port values are current; that these stand in
`inputs` and that `cycle` counts is MODEL'S OWN (log 1, log 3). -/
def Obligations.StepRunsTheDecodedCommand : Prop :=
  ∀ (s : State) (i : Instr), s.rst = false → decode s.cmd = i →
    ∃ t, exec i s = .next t ∧ step s = .next { t with inputs := s.inputs.tail, cycle := s.cycle + 1 }

/-- After any edge, the port values of the cycle `j` ahead are those that were `j + 1` ahead. MODEL'S OWN (log 1, 2, 3, 14). -/
def Obligations.PortValuesMoveOneCycle : Prop :=
  ∀ s : State, ∃ t, step s = .next t ∧ ∀ j : Nat, t.pinsAt j = s.pinsAt (j + 1)

/-- 10_state.md section 8: `step` computes the transition function of that section's text. -/
def Obligations.StepIsTheTransitionFunction : Prop :=
  ∀ s : State, ∃ t, step s = .next t ∧ t.registers = specNext s s.rst s.cmd

/-- What an instruction leaves: the phase but for a valid STEP, `en` but for a valid STEP and STOP; and, MODEL'S OWN, the schedule
(log 1), the cycle number (log 3) and the host (log 14) always: `exec` leaves them to `step`, by the model's choice. -/
def Obligations.CommandsLeaveTheRestUnchanged : Prop :=
  ∀ (i : Instr) (s : State), ∃ t, exec i s = .next t ∧
    t.inputs = s.inputs ∧ t.cycle = s.cycle ∧ t.host = s.host ∧
    (i ≠ .stepCw → i ≠ .stepCcw → t.phase = s.phase) ∧
    (i ≠ .stepCw → i ≠ .stepCcw → i ≠ .stop → t.en = s.en)

/-! ## The commands -/

/-- R75. -/
def Obligations.IdleClearsTheStrobesAndHoldsTheLines : Prop :=
  (∀ w : Cmd, w.getLsbD 3 = false → decode w = .idle) ∧ encode .idle = 0b0000#4 ∧
  ∀ s : State, ∃ t, exec .idle s = .next t ∧
    t = { s with emit := false, err := false } ∧
    (∀ rom : Rom, t.coil rom = s.coil rom) ∧ (∀ rom : Rom, (t.outputs rom).phaseO = (s.outputs rom).phaseO)

/-- R61. -/
def Obligations.StepCwAdvancesAndEmitsTheNewEntry : Prop :=
  decode 0b1001#4 = .stepCw ∧
  ∀ s : State, ∃ t, exec .stepCw s = .next t ∧
    t = { s with phase := phaseAdd s.phase 0b01#2, en := true, emit := true, err := false } ∧
    t.phase.toNat = (s.phase.toNat + 1) % 4 ∧
    (∀ rom : Rom, t.coil rom = rom.read (s.phase + 1#2)) ∧
    (∀ rom : Rom, s.phase = 3#2 → t.phase = 0#2 ∧ t.coil rom = rom.word0) ∧
    (∀ rom : Rom, s.phase = 0#2 → t.phase = 1#2 ∧ t.coil rom = rom.word1)

/-- R62. -/
def Obligations.StepCcwReturnsAndEmitsTheNewEntry : Prop :=
  decode 0b1011#4 = .stepCcw ∧
  (∀ s : State, ∃ t, exec .stepCcw s = .next t ∧
    t = { s with phase := phaseAdd s.phase 0b11#2, en := true, emit := true, err := false } ∧
    (t.phase.toNat : Int) = ((s.phase.toNat : Int) - 1) % 4 ∧
    (∀ rom : Rom, t.coil rom = rom.read (s.phase - 1#2)) ∧
    (∀ rom : Rom, s.phase = 0#2 → t.phase = 3#2 ∧ t.coil rom = rom.word3)) ∧
  (∀ (s : State) (rom : Rom), ∃ t u, exec .stepCw s = .next t ∧ exec .stepCcw t = .next u ∧
    u.phase = s.phase ∧ u.coil rom = rom.read s.phase)

/-- R63. -/
def Obligations.StepInv0OnlyReports : Prop :=
  decode 0b1000#4 = .stepInv0 ∧
  ∀ s : State, ∃ t, exec .stepInv0 s = .next t ∧ t = s.raise .invalidDirection ∧
    t = { s with emit := false, err := true } ∧
    (∀ rom : Rom, t.coil rom = s.coil rom ∧ (t.outputs rom).phaseO = (s.outputs rom).phaseO) ∧
    (∃ u, exec .idle s = .next u ∧ t = { u with err := true })

/-- R64. -/
def Obligations.StepInv2OnlyReports : Prop :=
  decode 0b1010#4 = .stepInv2 ∧
  ∀ s : State, ∃ t, exec .stepInv2 s = .next t ∧ t = s.raise .invalidDirection ∧
    t = { s with emit := false, err := true } ∧
    (∀ rom : Rom, t.coil rom = s.coil rom ∧ (t.outputs rom).phaseO = (s.outputs rom).phaseO)

/-- R70. -/
def Obligations.StopDeEnergisesAndKeepsThePhase : Prop :=
  (∀ w : Cmd, w.getLsbD 3 = true → w.getLsbD 2 = true → decode w = .stop) ∧ encode .stop = 0b1100#4 ∧
  ∀ s : State, ∃ t, exec .stop s = .next t ∧
    t = { s with en := false, emit := true, err := false } ∧
    (∀ rom : Rom, t.events rom = [.apply 0b0000#4] ∧ t.coil rom = 0b0000#4)

/-- R60: the adder on unsigned values, in gates, against clamp-and-wrap, and when its sum is written back. -/
def Obligations.PhaseAdderIsModuloFour : Prop :=
  (∀ (p : Phase) (d : Delta),
    (phaseAdd p d).toNat = (p.toNat + d.toNat) % 4 ∧
    (phaseAdd p d).getLsbD 0 = phaseAddBit0 p d ∧ (phaseAdd p d).getLsbD 1 = phaseAddBit1 p d ∧
    (validDirection d = true → ((phaseAdd p d).toNat : Int) = clampAndWrap p d) ∧
    (validDirection d = true → phaseAddBit0 p d = !p.getLsbD 0)) ∧
  (∀ p : Phase, phaseAddBit1 p 0b01#2 = (p.getLsbD 1 ^^ p.getLsbD 0) ∧
    phaseAddBit1 p 0b11#2 = (p.getLsbD 1 ^^ !p.getLsbD 0)) ∧
  (∀ (s : State) (d : Delta),
    (validDirection d = true → (s.stepBy d).phase = phaseAdd s.phase d) ∧
    (validDirection d = false → (s.stepBy d).phase = s.phase))

/-! ## Who writes each register -/

/-- R11, R12: the phase is written by the two valid STEPs and by reset, and by nothing else. -/
def Obligations.PhaseIsWrittenByValidStepAndReset : Prop :=
  ∀ s : State, ∃ t, step s = .next t ∧
    (s.rst = true → t.phase = 0#2) ∧
    (s.rst = false → decode s.cmd = .stepCw → t.phase.toNat = (s.phase.toNat + 1) % 4) ∧
    (s.rst = false → decode s.cmd = .stepCcw → t.phase.toNat = (s.phase.toNat + 3) % 4) ∧
    (s.rst = false → decode s.cmd ≠ .stepCw → decode s.cmd ≠ .stepCcw → t.phase = s.phase)

/-- R13: who sets, clears and keeps `en`, and that no other register's next value depends on it. -/
def Obligations.EnIsSetByValidStepAndClearedByStopAndReset : Prop :=
  ∀ s : State, ∃ t, step s = .next t ∧
    (s.rst = true → t.en = false) ∧
    (s.rst = false → decode s.cmd = .stop → t.en = false) ∧
    (s.rst = false → decode s.cmd = .stepCw ∨ decode s.cmd = .stepCcw → t.en = true) ∧
    (s.rst = false → decode s.cmd = .idle ∨ decode s.cmd = .stepInv0 ∨ decode s.cmd = .stepInv2 → t.en = s.en) ∧
    (∀ b : Bool, ∃ u, step { s with en := b } = .next u ∧ u.phase = t.phase ∧ u.emit = t.emit ∧ u.err = t.err)

/-- R14. -/
def Obligations.EmitReportsExactlyTheEmittingCommands : Prop :=
  ∀ s : State, ∃ t, step s = .next t ∧
    (t.emit = true ↔ s.rst = false ∧ (decode s.cmd = .stepCw ∨ decode s.cmd = .stepCcw ∨ decode s.cmd = .stop))

/-- R15: when `err` is 1, and that a command that sets it writes nothing but the strobes. -/
def Obligations.ErrReportsExactlyTheInvalidSteps : Prop :=
  ∀ s : State, ∃ t, step s = .next t ∧
    (t.err = true ↔ s.rst = false ∧ (decode s.cmd = .stepInv0 ∨ decode s.cmd = .stepInv2)) ∧
    (t.err = true → t.phase = s.phase ∧ t.en = s.en ∧ t.emit = false)

/-- R24, second half: what the strobes and `en` tell of the last command. -/
def Obligations.StrobesTellTheLastCommand : Prop :=
  ∀ s : State, ∃ t, step s = .next t ∧
    (t.emit = true → t.en = true → s.rst = false ∧ (decode s.cmd = .stepCw ∨ decode s.cmd = .stepCcw)) ∧
    (t.emit = true → t.en = false → s.rst = false ∧ decode s.cmd = .stop)

/-! ## Outputs and the ROM -/

/-- R19, R22: the output multiplexer, and `phase_o`; `emit` and `err` are the registers. -/
def Obligations.OutputMultiplexer : Prop :=
  ∀ (rom : Rom) (s : State),
    (s.outputs rom).coil =
      (if s.en = true then
        (if s.phase = 0#2 then rom.word0 else if s.phase = 1#2 then rom.word1
          else if s.phase = 2#2 then rom.word2 else rom.word3)
       else 0b0000#4) ∧
    (s.outputs rom).phaseO = s.phase ∧ (s.outputs rom).emit = s.emit ∧ (s.outputs rom).err = s.err

/-- R32: the ROM is seen at the address `phase` only, and only while `en = 1`. -/
def Obligations.OutputsSeeTheRomAtThePhaseOnly : Prop :=
  ∀ (rom rom' : Rom) (s : State), (s.en = true → rom.read s.phase = rom'.read s.phase) → s.outputs rom = s.outputs rom'

/-- R37: a table meets V1 to V4 exactly when it is one of the eight listed, and these are eight different tables. -/
def Obligations.ValidTablesAreTheEightListed : Prop :=
  (∀ rom : Rom, RomValid rom ↔ rom ∈ admissibleTables) ∧ admissibleTables.Nodup ∧ admissibleTables.length = 8

/-- R34: V2 implies V1, and leaves four words for an entry. -/
def Obligations.DrivenCoilsAreNotShorted : Prop :=
  (∀ rom : Rom, rom.V2 → rom.V1) ∧
  (∀ w : Pattern, HasPolarity (pairA w) ∧ HasPolarity (pairB w) ↔
    w = 0b1010#4 ∨ w = 0b1001#4 ∨ w = 0b0110#4 ∨ w = 0b0101#4)

/-- R25: in every state, reachable or not, the lines carry LOW or a ROM word, and with a valid ROM they never short a bridge. -/
def Obligations.LinesNeverShortABridge : Prop :=
  ∀ (rom : Rom) (s : State),
    (s.coil rom = 0b0000#4 ∨ s.coil rom = rom.word0 ∨ s.coil rom = rom.word1 ∨ s.coil rom = rom.word2 ∨
      s.coil rom = rom.word3) ∧
    (RomValid rom → NoShort (s.coil rom))

/-! ## The exception -/

/-- R81, R82: raising InvalidDirection writes the two strobes and nothing else, and the report is its cause number. -/
def Obligations.RaiseReportsAndChangesNothingElse : Prop :=
  ∀ s : State,
    s.raise .invalidDirection = { s with emit := false, err := true } ∧
    (∀ rom : Rom, (s.raise .invalidDirection).coil rom = s.coil rom ∧
      (s.raise .invalidDirection).events rom = [.invalidDirection]) ∧
    (s.raise .invalidDirection).cause = 1 ∧ (s.err = false → s.cause = 0) ∧ (s.err = true → s.cause = 1)

/-- R80: InvalidDirection is raised by the two invalid STEPs always, and by no other command. -/
def Obligations.OnlyInvalidStepsRaise : Prop :=
  ∀ (i : Instr) (s : State), ∃ t, exec i s = .next t ∧
    (t.err = true ↔ i = .stepInv0 ∨ i = .stepInv2) ∧
    (t.err = true → t = s.raise .invalidDirection)

/-- R88: errors do not nest, are counted by cycles, and block nothing. -/
def Obligations.ErrorsPulseOncePerInvalidStep : Prop :=
  (∀ (k : Nat) (s : State), NoReset k s →
    (∀ j : Nat, j < k → s.commandAt j = .stepInv0 ∨ s.commandAt j = .stepInv2) →
    (cycles k s).tail.length = k ∧
    ∀ u ∈ (cycles k s).tail, u.err = true ∧ u.emit = false ∧ u.phase = s.phase ∧ u.en = s.en) ∧
  (∀ s : State, s.rst = true ∨ (s.commandAt 0 ≠ .stepInv0 ∧ s.commandAt 0 ≠ .stepInv2) →
    ∃ t, step s = .next t ∧ t.err = false) ∧
  (∀ (i : Instr) (s : State), ∃ t, exec i (s.raise .invalidDirection) = .next t ∧ exec i s = .next t)

/-! ## Reset -/

/-- After R96: an edge with `rst = 1` gives every register its reset value; no emission and no error is reported. That the edge drops
the current port values and counts the cycle is MODEL'S OWN (log 1, log 3), and so is that it keeps the host (log 14). -/
def Obligations.ResetEdgeClearsEveryRegister : Prop :=
  ∀ s : State, s.rst = true → ∃ t, step s = .next t ∧
    t = { s with phase := 0#2, en := false, emit := false, err := false, inputs := s.inputs.tail, cycle := s.cycle + 1 } ∧
    (∀ rom : Rom, t.outputs rom = ⟨0b0000#4, false, false, 0#2⟩ ∧ t.events rom = [])

/-- R97, R86: under `rst = 1` the word is not decoded, and reset held at 1 keeps the reset values. -/
def Obligations.ResetOverridesTheCommand : Prop :=
  (∀ (s : State) (w w' : Cmd), step (s.present ⟨true, w⟩) = step (s.present ⟨true, w'⟩)) ∧
  (∀ (k : Nat) (s : State), (∀ j : Nat, j < k → (s.pinsAt j).rst = true) →
    ∀ u ∈ (cycles k s).tail, u.registers = (0#2, false, false, false))

/-- R26: the registers and outputs of the reset state. -/
def Obligations.ResetStateHoldsTheResetValues : Prop :=
  State.reset.phase = 0#2 ∧ State.reset.en = false ∧ State.reset.emit = false ∧ State.reset.err = false ∧
  ∀ rom : Rom, State.reset.coil rom = 0b0000#4 ∧ (State.reset.outputs rom).phaseO = 0#2

/-- R98: reset is the only way the phase changes but by a valid STEP, and the only way the lines change with no emission. -/
def Obligations.OnlyResetChangesTheLinesSilently : Prop :=
  ∀ (rom : Rom) (s : State), ∃ t, step s = .next t ∧
    (s.rst = true → t.registers = State.reset.registers ∧ t.phase = 0#2 ∧ t.coil rom = 0b0000#4 ∧ t.emit = false) ∧
    (t.phase ≠ s.phase → s.rst = true ∨ decode s.cmd = .stepCw ∨ decode s.cmd = .stepCcw) ∧
    (t.coil rom ≠ s.coil rom → s.rst = true ∨ t.emit = true)

/-- R100: after reset, and whatever commands that do not step come before, the first valid STEP emits `ROM[1]` or `ROM[3]`, and
nothing has put `ROM[0]` on the lines before it. -/
def Obligations.FirstStepAfterResetEmitsEntryOneOrThree : Prop :=
  ∀ (rom : Rom) (before : List Instr) (after : List Pins),
    (∀ i ∈ before, i ≠ .stepCw ∧ i ≠ .stepCcw) →
    (∃ t, RunsTo (before.length + 1) (State.reset.schedule (before.map Instr.line ++ Instr.stepCw.line :: after)) t ∧
      t.emit = true ∧ t.coil rom = rom.word1) ∧
    (∃ t, RunsTo (before.length + 1) (State.reset.schedule (before.map Instr.line ++ Instr.stepCcw.line :: after)) t ∧
      t.emit = true ∧ t.coil rom = rom.word3) ∧
    (∀ u ∈ cycles before.length (State.reset.schedule (before.map Instr.line ++ after)), u.coil rom = 0b0000#4)

/-! ## Laws of the commands over runs -/

/-- R65 item 1: four steps in one direction visit every phase and come back. -/
def Obligations.FourStepsCloseTheCycle : Prop :=
  ∀ s : State, NoReset 4 s →
    ((∀ j : Nat, j < 4 → s.commandAt j = .stepCw) →
      (cycles 4 s).map State.phase = [s.phase, s.phase + 1#2, s.phase + 2#2, s.phase + 3#2, s.phase]) ∧
    ((∀ j : Nat, j < 4 → s.commandAt j = .stepCcw) →
      (cycles 4 s).map State.phase = [s.phase, s.phase - 1#2, s.phase - 2#2, s.phase - 3#2, s.phase])

/-- R65 item 2: a step and its reversal, in both orders, with their two emissions. -/
def Obligations.ReversalReturnsToThePhase : Prop :=
  ∀ (rom : Rom) (s : State),
    (∃ t u, exec .stepCw s = .next t ∧ exec .stepCcw t = .next u ∧ u.phase = s.phase ∧
      t.events rom = [.apply (rom.read (s.phase + 1#2))] ∧ u.events rom = [.apply (rom.read s.phase)]) ∧
    (∃ t u, exec .stepCcw s = .next t ∧ exec .stepCw t = .next u ∧ u.phase = s.phase ∧
      t.events rom = [.apply (rom.read (s.phase - 1#2))] ∧ u.events rom = [.apply (rom.read s.phase)])

/-- R65 item 3: a valid STEP moves the phase by one and the word by one coil. -/
def Obligations.EachStepFlipsExactlyOneCoil : Prop :=
  ∀ (rom : Rom) (s : State) (i : Instr), RomValid rom → i = .stepCw ∨ i = .stepCcw →
    ∃ t, exec i s = .next t ∧ (t.phase = s.phase + 1#2 ∨ t.phase = s.phase - 1#2) ∧
      DifferInOneCoil (rom.read s.phase) (t.coil rom)

/-- R65 item 4: the phase after any run without reset, from the numbers of its valid STEPs. -/
def Obligations.PhaseCountsTheSteps : Prop :=
  ∀ (k : Nat) (s : State), NoReset k s → ∃ t, RunsTo k s t ∧
    ∀ n c : Nat, c = commandCount .stepCw k s → n = c + commandCount .stepCcw k s →
      (t.phase.toNat : Int) = ((s.phase.toNat : Int) + 2 * c - n) % 4

/-- 95 section 6: with a valid ROM and neither STOP nor reset, consecutive emissions differ in exactly one coil's polarity. -/
def Obligations.ConsecutiveEmissionsFlipOneCoil : Prop :=
  ∀ (rom : Rom) (k : Nat) (s : State), RomValid rom → NoReset k s →
    (∀ j : Nat, j < k → s.commandAt j ≠ .stop) → (s.emit = true → s.en = true) →
    ∀ (xs ys : List Pattern) (p q : Pattern), emissionTrace rom k s = xs ++ p :: q :: ys → DifferInOneCoil p q

/-- R66: what a valid STEP does depends on the phase and the direction only. -/
def Obligations.StepDependsOnThePhaseOnly : Prop :=
  ∀ (i : Instr) (s s' : State), i = .stepCw ∨ i = .stepCcw → s.phase = s'.phase →
    ∃ t t', exec i s = .next t ∧ exec i s' = .next t' ∧ t.registers = t'.registers

/-- No command and no reset reads the strobes: states that differ in them alone have the same next state. -/
def Obligations.StrobesInfluenceNothing : Prop :=
  ∀ (s : State) (b c : Bool), ∃ t, step s = .next t ∧ step { s with emit := b, err := c } = .next t

/-- R71: STOP commands with IDLE between them emit one LOW pattern each and keep the phase; in consecutive cycles `emit` stays 1. -/
def Obligations.StopIsIdempotent : Prop :=
  ∀ (rom : Rom) (k : Nat) (s : State), NoReset k s →
    ((∀ j : Nat, j < k → s.commandAt j = .stop ∨ s.commandAt j = .idle) →
      emissionTrace rom k s =
        (if s.emit = true then [s.coil rom] else []) ++ List.replicate (commandCount .stop k s) 0b0000#4 ∧
      ∀ u ∈ cycles k s, u.phase = s.phase) ∧
    ((∀ j : Nat, j < k → s.commandAt j = .stop) →
      (cycles k s).tail.length = k ∧ ∀ u ∈ (cycles k s).tail, u.emit = true ∧ u.coil rom = 0b0000#4)

/-- R72: a valid STEP after STOP starts from the kept phase and leaves it; nothing re-energises the coils at the kept phase. -/
def Obligations.ResumeStepsFromTheKeptPhase : Prop :=
  (∀ (rom : Rom) (s : State), ∃ t u v, exec .stop s = .next t ∧
    exec .stepCw t = .next u ∧ u.phase = s.phase + 1#2 ∧ u.events rom = [.apply (rom.read (s.phase + 1#2))] ∧
    exec .stepCcw t = .next v ∧ v.phase = s.phase - 1#2 ∧ v.events rom = [.apply (rom.read (s.phase - 1#2))] ∧
    (RomValid rom → u.coil rom ≠ rom.read s.phase ∧ v.coil rom ≠ rom.read s.phase)) ∧
  (∀ (i : Instr) (s : State), s.en = false → ∃ t, exec i s = .next t ∧ (t.en = true → t.phase ≠ s.phase))

/-- R76: IDLE alone reports nothing and keeps phase and `en`, and an IDLE cycle inserted anywhere changes neither the emissions nor
the error reports nor the final phase and `en`. -/
def Obligations.IdleMayBeInsertedAnywhere : Prop :=
  (∀ (rom : Rom) (i : Instr) (s : State), ∃ t, exec i s = .next t ∧
    ((t.events rom = [] ∧ t.phase = s.phase ∧ t.en = s.en) ↔ i = .idle)) ∧
  ∀ (rom : Rom) (s : State) (before after : List Pins) (w : Cmd), w.getLsbD 3 = false →
    ∃ t t',
      RunsTo (before ++ after).length (s.schedule (before ++ after)) t ∧
      RunsTo ((before ++ after).length + 1) (s.schedule (before ++ ⟨false, w⟩ :: after)) t' ∧
      t'.phase = t.phase ∧ t'.en = t.en ∧
      emissionTrace rom ((before ++ after).length + 1) (s.schedule (before ++ ⟨false, w⟩ :: after)) =
        emissionTrace rom (before ++ after).length (s.schedule (before ++ after)) ∧
      errorCount ((before ++ after).length + 1) (s.schedule (before ++ ⟨false, w⟩ :: after)) =
        errorCount (before ++ after).length (s.schedule (before ++ after)) ∧
      callTrace rom ((before ++ after).length + 1) (s.schedule (before ++ ⟨false, w⟩ :: after)) =
        callTrace rom (before ++ after).length (s.schedule (before ++ after))

/-- R55: `WAIT n` holds the lines for `n` cycles and reports nothing. That the rest of the schedule is left is MODEL'S OWN (log 1). -/
def Obligations.WaitHoldsTheLines : Prop :=
  ∀ (rom : Rom) (n : Nat) (s : State) (after : List Pins),
    ∃ t, RunsTo n (s.schedule ((Pseudo.wait n).lines ++ after)) t ∧
      t.phase = s.phase ∧ t.en = s.en ∧ t.inputs = after ∧
      callTrace rom n (s.schedule ((Pseudo.wait n).lines ++ after)) = s.events rom ∧
      ∀ u ∈ cycles n (s.schedule ((Pseudo.wait n).lines ++ after)), u.coil rom = s.coil rom

/-- R55: `REV n` with `WAIT k` after each step takes `n * (k + 1)` cycles, emits `n` times, beside the emission that the start itself
may report, and turns the phase by `n`. That the rest of the schedule is left is MODEL'S OWN (log 1). -/
def Obligations.RevTurnsThePhaseByItsCount : Prop :=
  ∀ (rom : Rom) (dir : Direction) (n k : Nat) (s : State) (after : List Pins),
    ∃ t, RunsTo (n * (k + 1)) (s.schedule ((Pseudo.rev dir n k).lines ++ after)) t ∧
      (t.phase.toNat : Int) = ((s.phase.toNat : Int) + n * toInt2 (directionDelta dir)) % 4 ∧
      (emissionTrace rom (n * (k + 1)) (s.schedule ((Pseudo.rev dir n k).lines ++ after))).length = n + (if s.emit = true then 1 else 0) ∧
      t.inputs = after

/-- R55, R103: what a host's mapping of any integer gives at the next edge: the source's `step(d)`. -/
def Obligations.AnyIntegerStepsOrIsRejected : Prop :=
  ∀ (d : Int) (s : State), ∃ t, exec (stepInstr d) s = .next t ∧
    (d = 1 ∨ d = -1 → t.err = false ∧ t.emit = true ∧ t.en = true ∧
      (t.phase.toNat : Int) = ((s.phase.toNat : Int) + d) % 4) ∧
    (d ≠ 1 → d ≠ -1 → t = s.raise .invalidDirection)

/-! ## The whole machine -/

/-- R107, 10_state.md section 8: every run of `k` edges exists and is unique; nothing stops SEQ. -/
def Obligations.EveryRunExists : Prop :=
  ∀ (k : Nat) (s : State), ∃ t, RunsTo k s t ∧ (∀ u, RunsTo k s u → u = t) ∧ (cycles k s).length = k + 1 ∧ (cycles k s).getLast? = some t

/-- R107, D25: what is observed of a run is a function of the registers at its start and the port values of its cycles; the cycle
number and the port values after the run do not show. -/
def Obligations.ObservationDependsOnRegistersAndPorts : Prop :=
  ∀ (rom : Rom) (k : Nat) (s s' : State), s.registers = s'.registers →
    (∀ j : Nat, j < k → s.pinsAt j = s'.pinsAt j) → observation rom k s = observation rom k s'

/-- R83: the ghost flag of a run tells whether an invalid STEP was sampled in it, resets or not, or the start reported one. -/
def Obligations.GhostFlagRecordsInvalidSteps : Prop :=
  ∀ (k : Nat) (s : State),
    (errEver k s = true ↔ s.err = true ∨ ∃ j : Nat, j < k ∧ (s.pinsAt j).rst = false ∧
      (s.commandAt j = .stepInv0 ∨ s.commandAt j = .stepInv2)) ∧
    (errEver k s = false ↔ errorCount k s = 0)

/-- R24 as an invariant of every edge: `emit` and `err` are never both 1. -/
def Obligations.EveryStepKeepsStrobesExclusive : Prop :=
  ∀ s t : State, StrobesExclusive s → step s = .next t → StrobesExclusive t

/-- R24 at reset. -/
def Obligations.StrobesExclusiveAtReset : Prop := StrobesExclusive State.reset

/-- R24: the register values reachable from reset are exactly the 24 with `emit` and `err` not both 1. -/
def Obligations.ReachableRegistersAreTheTwentyFour : Prop :=
  ∀ (p : Phase) (en emit err : Bool),
    (∃ (ps : List Pins) (k : Nat) (t : State), RunsTo k (State.reset.schedule ps) t ∧ t.registers = (p, en, emit, err)) ↔
      ¬(emit = true ∧ err = true)

/-- R23: in a run without reset the lines carry the pattern of the last emission, and what they carried at the start if there was
none; from the reset state that is LOW. -/
def Obligations.LinesCarryTheLastEmission : Prop :=
  (∀ (rom : Rom) (k : Nat) (s : State), NoReset k s →
    ∃ t, RunsTo k s t ∧ t.coil rom = ((emissionTrace rom k s).getLast?).getD (s.coil rom)) ∧
  (∀ (rom : Rom) (k : Nat) (ps : List Pins), NoReset k (State.reset.schedule ps) →
    ∃ t, RunsTo k (State.reset.schedule ps) t ∧
      t.coil rom = ((emissionTrace rom k (State.reset.schedule ps)).getLast?).getD 0b0000#4)

/-- 95 section 1: the run of any sequence of calls, with any IDLE cycles before and between them, reports exactly the patterns and
errors of the source's Sequencer, in order, and ends at its phase index. The Sequencer is the model's transcription of the source
(log 13), and that the rest of the schedule is left is MODEL'S OWN (log 1). -/
def Obligations.HardwareRunsTheSequencersCalls : Prop :=
  ∀ (rom : Rom) (cs : List (Call × Nat)) (n : Nat) (s : State) (q : Sequencer) (after lines : List Pins),
    s.emit = false → s.err = false → q.index = (s.phase.toNat : Int) →
    lines = List.replicate n Instr.idle.line ++ callLines cs →
    ∃ t, RunsTo lines.length (s.schedule (lines ++ after)) t ∧
      callTrace rom lines.length (s.schedule (lines ++ after)) = (sequencerCalls rom (cs.map Prod.fst) q).2 ∧
      (t.phase.toNat : Int) = (sequencerCalls rom (cs.map Prod.fst) q).1.index ∧ t.inputs = after

/-- After R91: in the model's bank of blocks (log 12, log 14), an edge of one block moves that block as `step` moves it alone, driven by
its own host, and leaves every other as it was. It speaks of the construction `stepInstance`. -/
def Obligations.InstancesDoNotInteract : Prop :=
  ∀ (bank : List State) (i : Nat) (s : State), bank[i]? = some s →
    ∃ t bank', step (s.drivenBy i) = .next t ∧ stepInstance i bank = some bank' ∧ bank'[i]? = some t ∧
      (s.host = i → step s = .next t) ∧ ∀ j : Nat, j ≠ i → bank'[j]? = bank[j]?

/-- After R91: whatever the order of the edges of the blocks' clocks, in the model's bank (log 12, log 14) each block ends where it
ends alone after as many edges of its own clock, driven by its own host; and its outputs are those it has alone. -/
def Obligations.InterleavedInstancesRunAsIfAlone : Prop :=
  ∀ (edges : List Nat) (bank : List State), (∀ i ∈ edges, i < bank.length) →
    ∃ bank', stepInstances edges bank = some bank' ∧ bank'.length = bank.length ∧
      ∀ (i : Nat) (s : State), bank[i]? = some s →
        ∃ t, RunsTo (edges.count i) (s.drivenBy i) t ∧ (bank'[i]?).map (State.drivenBy i) = some t ∧
          ∀ roms : Nat → Rom, instanceOutputs roms i bank' = some (t.outputs (roms i))

/-- After R91: blocks that each have a host of their own keep it at every edge of any of them, and so it is after reset. MODEL'S OWN
(log 12, log 14). -/
def Obligations.EveryInstanceKeepsItsOwnHost : Prop :=
  (∀ (i : Nat) (bank bank' : List State), OwnHosts bank → stepInstance i bank = some bank' → OwnHosts bank') ∧
  (∀ n : Nat, (bankReset n).length = n ∧ OwnHosts (bankReset n))
end

