-- ==== Sys2Proof/Laws/State.lean ====
section
/-! SUPPORT. One lemma per field per update of State, so that no proof unfolds a record update. -/

namespace Sys2Proof.Machine

@[simp] theorem State.strobeNone_phase (s : State) : (s.strobeNone).phase = s.phase := rfl
@[simp] theorem State.strobeNone_en (s : State) : (s.strobeNone).en = s.en := rfl
@[simp] theorem State.strobeNone_emit (s : State) : (s.strobeNone).emit = false := rfl
@[simp] theorem State.strobeNone_err (s : State) : (s.strobeNone).err = false := rfl
@[simp] theorem State.strobeNone_inputs (s : State) : (s.strobeNone).inputs = s.inputs := rfl
@[simp] theorem State.strobeNone_cycle (s : State) : (s.strobeNone).cycle = s.cycle := rfl
@[simp] theorem State.strobeNone_host (s : State) : (s.strobeNone).host = s.host := rfl

@[simp] theorem State.strobeEmit_phase (s : State) : (s.strobeEmit).phase = s.phase := rfl
@[simp] theorem State.strobeEmit_en (s : State) : (s.strobeEmit).en = s.en := rfl
@[simp] theorem State.strobeEmit_emit (s : State) : (s.strobeEmit).emit = true := rfl
@[simp] theorem State.strobeEmit_err (s : State) : (s.strobeEmit).err = false := rfl
@[simp] theorem State.strobeEmit_inputs (s : State) : (s.strobeEmit).inputs = s.inputs := rfl
@[simp] theorem State.strobeEmit_cycle (s : State) : (s.strobeEmit).cycle = s.cycle := rfl
@[simp] theorem State.strobeEmit_host (s : State) : (s.strobeEmit).host = s.host := rfl

@[simp] theorem State.strobeErr_phase (s : State) : (s.strobeErr).phase = s.phase := rfl
@[simp] theorem State.strobeErr_en (s : State) : (s.strobeErr).en = s.en := rfl
@[simp] theorem State.strobeErr_emit (s : State) : (s.strobeErr).emit = false := rfl
@[simp] theorem State.strobeErr_err (s : State) : (s.strobeErr).err = true := rfl
@[simp] theorem State.strobeErr_inputs (s : State) : (s.strobeErr).inputs = s.inputs := rfl
@[simp] theorem State.strobeErr_cycle (s : State) : (s.strobeErr).cycle = s.cycle := rfl
@[simp] theorem State.strobeErr_host (s : State) : (s.strobeErr).host = s.host := rfl

@[simp] theorem State.setEn_phase (b : Bool) (s : State) : (s.setEn b).phase = s.phase := rfl
@[simp] theorem State.setEn_en (b : Bool) (s : State) : (s.setEn b).en = b := rfl
@[simp] theorem State.setEn_emit (b : Bool) (s : State) : (s.setEn b).emit = s.emit := rfl
@[simp] theorem State.setEn_err (b : Bool) (s : State) : (s.setEn b).err = s.err := rfl
@[simp] theorem State.setEn_inputs (b : Bool) (s : State) : (s.setEn b).inputs = s.inputs := rfl
@[simp] theorem State.setEn_cycle (b : Bool) (s : State) : (s.setEn b).cycle = s.cycle := rfl
@[simp] theorem State.setEn_host (b : Bool) (s : State) : (s.setEn b).host = s.host := rfl

@[simp] theorem State.tick_phase (s : State) : (s.tick).phase = s.phase := rfl
@[simp] theorem State.tick_en (s : State) : (s.tick).en = s.en := rfl
@[simp] theorem State.tick_emit (s : State) : (s.tick).emit = s.emit := rfl
@[simp] theorem State.tick_err (s : State) : (s.tick).err = s.err := rfl
@[simp] theorem State.tick_inputs (s : State) : (s.tick).inputs = s.inputs.tail := rfl
@[simp] theorem State.tick_cycle (s : State) : (s.tick).cycle = s.cycle + 1 := rfl
@[simp] theorem State.tick_host (s : State) : (s.tick).host = s.host := rfl

@[simp] theorem State.present_phase (p : Pins) (s : State) : (s.present p).phase = s.phase := rfl
@[simp] theorem State.present_en (p : Pins) (s : State) : (s.present p).en = s.en := rfl
@[simp] theorem State.present_emit (p : Pins) (s : State) : (s.present p).emit = s.emit := rfl
@[simp] theorem State.present_err (p : Pins) (s : State) : (s.present p).err = s.err := rfl
@[simp] theorem State.present_inputs (p : Pins) (s : State) : (s.present p).inputs = p :: s.inputs.tail := rfl
@[simp] theorem State.present_cycle (p : Pins) (s : State) : (s.present p).cycle = s.cycle := rfl
@[simp] theorem State.present_host (p : Pins) (s : State) : (s.present p).host = s.host := rfl

@[simp] theorem State.drivenBy_phase (h : Nat) (s : State) : (s.drivenBy h).phase = s.phase := rfl
@[simp] theorem State.drivenBy_en (h : Nat) (s : State) : (s.drivenBy h).en = s.en := rfl
@[simp] theorem State.drivenBy_emit (h : Nat) (s : State) : (s.drivenBy h).emit = s.emit := rfl
@[simp] theorem State.drivenBy_err (h : Nat) (s : State) : (s.drivenBy h).err = s.err := rfl
@[simp] theorem State.drivenBy_inputs (h : Nat) (s : State) : (s.drivenBy h).inputs = s.inputs := rfl
@[simp] theorem State.drivenBy_cycle (h : Nat) (s : State) : (s.drivenBy h).cycle = s.cycle := rfl
@[simp] theorem State.drivenBy_host (h : Nat) (s : State) : (s.drivenBy h).host = h := rfl

@[simp] theorem State.resetEdge_phase (s : State) : (s.resetEdge).phase = 0#2 := rfl
@[simp] theorem State.resetEdge_en (s : State) : (s.resetEdge).en = false := rfl
@[simp] theorem State.resetEdge_emit (s : State) : (s.resetEdge).emit = false := rfl
@[simp] theorem State.resetEdge_err (s : State) : (s.resetEdge).err = false := rfl
@[simp] theorem State.resetEdge_inputs (s : State) : (s.resetEdge).inputs = s.inputs := rfl
@[simp] theorem State.resetEdge_cycle (s : State) : (s.resetEdge).cycle = s.cycle := rfl
@[simp] theorem State.resetEdge_host (s : State) : (s.resetEdge).host = s.host := rfl

@[simp] theorem State.emitTable_phase (p : Phase) (s : State) : (s.emitTable p).phase = p := rfl
@[simp] theorem State.emitTable_en (p : Phase) (s : State) : (s.emitTable p).en = true := rfl
@[simp] theorem State.emitTable_emit (p : Phase) (s : State) : (s.emitTable p).emit = true := rfl
@[simp] theorem State.emitTable_err (p : Phase) (s : State) : (s.emitTable p).err = false := rfl
@[simp] theorem State.emitTable_inputs (p : Phase) (s : State) : (s.emitTable p).inputs = s.inputs := rfl
@[simp] theorem State.emitTable_cycle (p : Phase) (s : State) : (s.emitTable p).cycle = s.cycle := rfl
@[simp] theorem State.emitTable_host (p : Phase) (s : State) : (s.emitTable p).host = s.host := rfl

@[simp] theorem State.emitLow_phase (s : State) : (s.emitLow).phase = s.phase := rfl
@[simp] theorem State.emitLow_en (s : State) : (s.emitLow).en = false := rfl
@[simp] theorem State.emitLow_emit (s : State) : (s.emitLow).emit = true := rfl
@[simp] theorem State.emitLow_err (s : State) : (s.emitLow).err = false := rfl
@[simp] theorem State.emitLow_inputs (s : State) : (s.emitLow).inputs = s.inputs := rfl
@[simp] theorem State.emitLow_cycle (s : State) : (s.emitLow).cycle = s.cycle := rfl
@[simp] theorem State.emitLow_host (s : State) : (s.emitLow).host = s.host := rfl

@[simp] theorem State.raise_phase (e : Exn) (s : State) : (s.raise e).phase = s.phase := by cases e; rfl
@[simp] theorem State.raise_en (e : Exn) (s : State) : (s.raise e).en = s.en := by cases e; rfl
@[simp] theorem State.raise_emit (e : Exn) (s : State) : (s.raise e).emit = false := by cases e; rfl
@[simp] theorem State.raise_err (e : Exn) (s : State) : (s.raise e).err = true := by cases e; rfl
@[simp] theorem State.raise_inputs (e : Exn) (s : State) : (s.raise e).inputs = s.inputs := by cases e; rfl
@[simp] theorem State.raise_cycle (e : Exn) (s : State) : (s.raise e).cycle = s.cycle := by cases e; rfl
@[simp] theorem State.raise_host (e : Exn) (s : State) : (s.raise e).host = s.host := by cases e; rfl

end Sys2Proof.Machine
end

