-- ==== Sys2Proof/Laws/Ops.lean ====
section
/-! SUPPORT. One lemma per shared operation, saying all it can do: reading the input ports, `step(direction)`, the end of an edge. -/

namespace Sys2Proof.Machine

theorem pinsAt_of_schedule {s : State} {j : Nat} {p : Pins} (h : s.inputs[j]? = some p) : s.pinsAt j = p := by
  simp [State.pinsAt, h]

/-- What the ports hold depends on the schedule, the cycle number and the host alone. -/
theorem pinsAt_congr {s t : State} (hi : t.inputs = s.inputs) (hc : t.cycle = s.cycle) (hh : t.host = s.host) (j : Nat) :
    t.pinsAt j = s.pinsAt j := by
  simp [State.pinsAt, hi, hc, hh]

@[simp] theorem pinsAt_tick (s : State) (j : Nat) : s.tick.pinsAt j = s.pinsAt (j + 1) := by
  cases h : s.inputs <;> simp [State.pinsAt, State.tick, h, Nat.add_comm, Nat.add_left_comm]

@[simp] theorem pinsAt_present_zero (s : State) (p : Pins) : (s.present p).pinsAt 0 = p := rfl

/-- Wiring a block to the host that drives it already changes nothing. -/
@[simp] theorem drivenBy_host (s : State) : s.drivenBy s.host = s := rfl

@[simp] theorem drivenBy_drivenBy (s : State) (h h' : Nat) : (s.drivenBy h).drivenBy h' = s.drivenBy h' := rfl

/-- `step(direction)` emits at the adder's sum for a valid direction and raises for the others. -/
theorem stepBy_cases (s : State) (d : Delta) :
    (validDirection d = true ∧ s.stepBy d = s.emitTable (s.phase + d)) ∨
      (validDirection d = false ∧ s.stepBy d = s.strobeErr) := by
  cases h : validDirection d
  · exact .inr ⟨rfl, by simp [State.stepBy, State.raise, h]⟩
  · exact .inl ⟨rfl, by simp [State.stepBy, phaseAdd, h]⟩

/-- An edge answers a next state exactly where the command did, one cycle later. -/
theorem afterEdge_next {o : Host.Outcome State Fault Refusal} {t : State} (h : afterEdge o = .next t) :
    ∃ u, o = .next u ∧ t = u.tick := by
  cases o with
  | next u => exact ⟨u, rfl, by simpa [afterEdge] using h.symm⟩
  | fault r => cases r
  | refused r => simp [afterEdge] at h

end Sys2Proof.Machine
end

