-- ==== Sys2Proof/Laws/PerInstr.lean ====
section
/-! SUPPORT. Per-instruction facts about the syntax: each class's canonical word is the match of its row (R50), decodes to the class
(R56) and disassembles to its mnemonic as a canonical word (R54, R56). -/

namespace Sys2Proof.Laws.Canonical

def Statement (i : Instr) : Prop :=
  i.wellFormed = true ∧ encode i = i.rowMatch ∧ decode (encode i) = i ∧ disassemble (encode i) = (i.mnemonic, false)

theorem idle : Statement .idle := ⟨rfl, rfl, rfl, rfl⟩

theorem stepInv0 : Statement .stepInv0 := ⟨rfl, rfl, rfl, rfl⟩

theorem stepCw : Statement .stepCw := ⟨rfl, rfl, rfl, rfl⟩

theorem stepInv2 : Statement .stepInv2 := ⟨rfl, rfl, rfl, rfl⟩

theorem stepCcw : Statement .stepCcw := ⟨rfl, rfl, rfl, rfl⟩

theorem stop : Statement .stop := ⟨rfl, rfl, rfl, rfl⟩

end Sys2Proof.Laws.Canonical
end

