-- ==== Sys2Proof/Laws/Step.lean ====
section
/-! SUPPORT. What a command and an edge can do, said once; the invariants are derived from these. -/

namespace Sys2Proof.Machine

/-- Every command leaves one of these states. -/
theorem exec_cases {i : Instr} {s t : State} (h : exec i s = .next t) :
    (i = .idle ∧ t = s.strobeNone) ∨
    ((i = .stepInv0 ∨ i = .stepInv2) ∧ t = s.strobeErr) ∨
    (i = .stepCw ∧ t = s.emitTable (s.phase + 0b01#2)) ∨
    (i = .stepCcw ∧ t = s.emitTable (s.phase + 0b11#2)) ∨
    (i = .stop ∧ t = s.emitLow) := by
  cases i <;> cases h
  · exact .inl ⟨rfl, rfl⟩
  · exact .inr (.inl ⟨.inl rfl, rfl⟩)
  · exact .inr (.inr (.inl ⟨rfl, rfl⟩))
  · exact .inr (.inl ⟨.inr rfl, rfl⟩)
  · exact .inr (.inr (.inr (.inl ⟨rfl, rfl⟩)))
  · exact .inr (.inr (.inr (.inr ⟨rfl, rfl⟩)))

/-- An edge resets, or runs the decoded command; then the next cycle begins. -/
theorem step_cases {s t : State} (h : step s = .next t) :
    (s.rst = true ∧ t = s.resetEdge.tick) ∨
    (s.rst = false ∧ ∃ u, exec (decode s.cmd) s = .next u ∧ t = u.tick) := by
  unfold step at h
  cases hr : s.rst <;> simp only [hr, ↓reduceIte, Bool.false_eq_true] at h
  · exact .inr ⟨rfl, afterEdge_next h⟩
  · obtain ⟨u, hu, rfl⟩ := afterEdge_next h
    cases hu
    exact .inl ⟨rfl, rfl⟩

/-- The converse of `step_cases`, without reset. -/
theorem step_of_exec {s u : State} (hr : s.rst = false) (h : exec (decode s.cmd) s = .next u) :
    step s = .next u.tick := by
  simp [step, hr, h, afterEdge]

/-- The converse of `step_cases`, with reset. -/
theorem step_of_rst {s : State} (hr : s.rst = true) : step s = .next s.resetEdge.tick := by
  simp [step, hr, afterEdge]

end Sys2Proof.Machine
end

