-- ==== Sys2Proof/Laws/Run.lean ====
section
/-! SUPPORT. Schedules, and runs taken apart at their first edge. -/

namespace Sys2Proof.Machine

@[simp] theorem State.schedule_phase (ps : List Pins) (s : State) : (s.schedule ps).phase = s.phase := rfl
@[simp] theorem State.schedule_en (ps : List Pins) (s : State) : (s.schedule ps).en = s.en := rfl
@[simp] theorem State.schedule_emit (ps : List Pins) (s : State) : (s.schedule ps).emit = s.emit := rfl
@[simp] theorem State.schedule_err (ps : List Pins) (s : State) : (s.schedule ps).err = s.err := rfl
@[simp] theorem State.schedule_inputs (ps : List Pins) (s : State) : (s.schedule ps).inputs = ps := rfl
@[simp] theorem State.schedule_cycle (ps : List Pins) (s : State) : (s.schedule ps).cycle = s.cycle := rfl
@[simp] theorem State.schedule_host (ps : List Pins) (s : State) : (s.schedule ps).host = s.host := rfl

@[simp] theorem State.schedule_coil (rom : Rom) (ps : List Pins) (s : State) : (s.schedule ps).coil rom = s.coil rom := rfl

@[simp] theorem State.schedule_events (rom : Rom) (ps : List Pins) (s : State) : (s.schedule ps).events rom = s.events rom := rfl

@[simp] theorem State.schedule_pinsAt_zero (p : Pins) (ps : List Pins) (s : State) : (s.schedule (p :: ps)).pinsAt 0 = p := rfl

@[simp] theorem cycles_zero (s : State) : cycles 0 s = [s] := rfl

theorem cycles_succ {s t : State} (h : step s = .next t) (k : Nat) : cycles (k + 1) s = s :: cycles k t := by
  simp [cycles, h]

theorem callTrace_succ {s t : State} (h : step s = .next t) (rom : Rom) (k : Nat) :
    callTrace rom (k + 1) s = s.events rom ++ callTrace rom k t := by
  simp [callTrace, cycles_succ h]

theorem runsTo_succ {s t : State} (h : step s = .next t) (k : Nat) (u : State) : RunsTo (k + 1) s u ↔ RunsTo k t u := by
  simp [RunsTo, Host.Core.run, core, h]

/-- An edge of block `i` is an edge of that block alone, driven by host `i`, and leaves a bank that differs at `i` only. -/
theorem stepInstance_of_step {i : Nat} {bank : List State} {s t : State} (hs : bank[i]? = some s)
    (h : step (s.drivenBy i) = .next t) : stepInstance i bank = some (bank.set i t) := by
  simp [stepInstance, hs, h]

/-- The converse of `stepInstance_of_step`. -/
theorem stepInstance_cases {i : Nat} {bank bank' : List State} (h : stepInstance i bank = some bank') :
    ∃ s t, bank[i]? = some s ∧ step (s.drivenBy i) = .next t ∧ bank' = bank.set i t := by
  unfold stepInstance at h
  split at h
  · cases h
  · rename_i s hs
    split at h <;> cases h
    rename_i t ht
    exact ⟨s, t, hs, ht, rfl⟩

end Sys2Proof.Machine
end

