-- ==== Sys2Proof/Tests/Slice0.lean ====
section
/-! SUPPORT. The model's own tests. Expected values are from spec/95_test_vectors.md and spec/30_encoding.md, never from the model. The
witnesses at the end meet the hypotheses of the statements. -/

namespace Sys2Proof.Tests

open Sys2Proof.Machine

/-! ## Helpers -/

/-- The outcome is a next state of which `f` holds. -/
def nextIs (o : Host.Outcome State Fault Refusal) (f : State → Bool) : Bool :=
  match o with
  | .next t => f t
  | .fault _ => false
  | .refused _ => false

/-- A state with both strobes 0 and the given port values settled. -/
def at' (phase : Phase) (en : Bool) (ps : List Pins) : State :=
  { phase := phase, en := en, emit := false, err := false, inputs := ps, cycle := 7, host := 3 }

/-- The registers and, with the default ROM, the lines after one edge from `(phase, en)` with `(rst, cmd)` on the ports. -/
def edge (phase : Phase) (en rst : Bool) (cmd : Cmd) (r : Phase × Bool × Bool × Bool) (coil : Pattern) : Bool :=
  nextIs (step (at' phase en [⟨rst, cmd⟩])) fun t => decide (t.registers = r ∧ t.coil romDefault = coil)

/-! ## Decoding: the words of R50, all 16 (95 section 4) -/

theorem test_decode_idle_words : decode 0b0000#4 = .idle ∧ decode 0b0001#4 = .idle ∧ decode 0b0010#4 = .idle ∧
    decode 0b0011#4 = .idle ∧ decode 0b0100#4 = .idle ∧ decode 0b0101#4 = .idle ∧ decode 0b0110#4 = .idle ∧
    decode 0b0111#4 = .idle := by decide

theorem test_decode_stepInv0_word : decode 0b1000#4 = .stepInv0 := by decide

theorem test_decode_stepCw_word : decode 0b1001#4 = .stepCw := by decide

theorem test_decode_stepInv2_word : decode 0b1010#4 = .stepInv2 := by decide

theorem test_decode_stepCcw_word : decode 0b1011#4 = .stepCcw := by decide

theorem test_decode_stop_words : decode 0b1100#4 = .stop ∧ decode 0b1101#4 = .stop ∧ decode 0b1110#4 = .stop ∧
    decode 0b1111#4 = .stop := by decide

theorem test_table_words : decodeTableWord 8 0 = some .idle ∧ decodeTableWord 8 8 = some .stepInv0 ∧
    decodeTableWord 8 9 = some .stepCw ∧ decodeTableWord 8 10 = some .stepInv2 ∧ decodeTableWord 8 11 = some .stepCcw ∧
    decodeTableWord 8 12 = some .stop ∧ decodeTableWord 4 15 = some .stop := by decide

theorem test_wide_number_is_refused : decodeTableWord 8 25 = none := by decide

/-- R55 and R49: `STEP 3` is an invalid word, not the truncation `1011`. -/
theorem test_integer_three_is_not_truncated : stepInstr 3 = .stepInv0 ∧ stepInstr (-3) = .stepInv0 := by decide

/-- R56: `0111` prints as IDLE and is not canonical. -/
theorem test_disassemble : disassemble 0b0111#4 = ("IDLE", true) ∧ disassemble 0b1011#4 = ("STEP.CCW", false) := by decide

/-- R55: `REV 2` clockwise with `WAIT 1`. -/
theorem test_rev_expansion : (Pseudo.rev .clockwise 2 1).lines =
    [⟨false, 0b1001#4⟩, ⟨false, 0b0000#4⟩, ⟨false, 0b1001#4⟩, ⟨false, 0b0000#4⟩] := by decide

/-! ## WellFormed: one ill-formed term for each check -/

theorem test_wordFits_refuses_sixteen : wordFits 15 = true ∧ wordFits 16 = false := by decide

/-- S3: the default table is valid. -/
theorem test_rom_default_valid : romDefault.wellFormed = true := by decide

/-- S3: `[1110, 0110, 0101, 1001]` fails V1. -/
theorem test_rom_refused_by_v1 : (Rom.mk 0b1110#4 0b0110#4 0b0101#4 0b1001#4).wellFormed = false ∧
    ¬(Rom.mk 0b1110#4 0b0110#4 0b0101#4 0b1001#4).V1 := by decide

/-- S3: `[0010, 0110, 0101, 1001]` passes V1 and fails V2. -/
theorem test_rom_refused_by_v2 : (Rom.mk 0b0010#4 0b0110#4 0b0101#4 0b1001#4).wellFormed = false ∧
    (Rom.mk 0b0010#4 0b0110#4 0b0101#4 0b1001#4).V1 ∧ ¬(Rom.mk 0b0010#4 0b0110#4 0b0101#4 0b1001#4).V2 := by decide

/-- S3: `[1010, 0101, 0110, 1001]` passes V2 and fails V3. -/
theorem test_rom_refused_by_v3 : (Rom.mk 0b1010#4 0b0101#4 0b0110#4 0b1001#4).wellFormed = false ∧
    (Rom.mk 0b1010#4 0b0101#4 0b0110#4 0b1001#4).V2 ∧ ¬(Rom.mk 0b1010#4 0b0101#4 0b0110#4 0b1001#4).V3 := by decide

/-- S3: `[1010, 0110, 1010, 0110]` passes V1 to V3 and fails V4. -/
theorem test_rom_refused_by_v4 : (Rom.mk 0b1010#4 0b0110#4 0b1010#4 0b0110#4).wellFormed = false ∧
    (Rom.mk 0b1010#4 0b0110#4 0b1010#4 0b0110#4).V3 ∧ ¬(Rom.mk 0b1010#4 0b0110#4 0b1010#4 0b0110#4).V4 := by decide

/-! ## One edge per command (95 sections 2 to 4) -/

/-- K6's contrast, and the vector IDLE (3, 1). -/
theorem test_idle_holds : edge 1#2 false false 0b0100#4 (1#2, false, false, false) 0b0000#4 = true ∧
    edge 3#2 true false 0b0000#4 (3#2, true, false, false) 0b1001#4 = true := by decide

/-- K2: the wrap upward. -/
theorem test_stepCw_wraps : edge 3#2 true false 0b1001#4 (0#2, true, true, false) 0b1010#4 = true := by decide

/-- K5's contrast: a valid STEP re-energises. -/
theorem test_stepCw_re_energises : edge 2#2 false false 0b1001#4 (3#2, true, true, false) 0b1001#4 = true := by decide

/-- K1: the wrap downward. -/
theorem test_stepCcw_wraps : edge 0#2 false false 0b1011#4 (3#2, true, true, false) 0b1001#4 = true := by decide

/-- K3's contrast. -/
theorem test_stepCcw_goes_back : edge 2#2 true false 0b1011#4 (1#2, true, true, false) 0b0110#4 = true := by decide

/-- K4 and K5: no re-emission, and no energising. -/
theorem test_stepInv0_only_reports : edge 2#2 true false 0b1000#4 (2#2, true, false, true) 0b0101#4 = true ∧
    edge 2#2 false false 0b1000#4 (2#2, false, false, true) 0b0000#4 = true := by decide

/-- K3: no move by two. -/
theorem test_stepInv2_only_reports : edge 2#2 true false 0b1010#4 (2#2, true, false, true) 0b0101#4 = true := by decide

/-- K7, and K6: STOP while stopped still emits. -/
theorem test_stop_de_energises : edge 1#2 true false 0b1110#4 (1#2, false, true, false) 0b0000#4 = true ∧
    edge 1#2 false false 0b1100#4 (1#2, false, true, false) 0b0000#4 = true := by decide

/-- K10 and K11: reset wins over a valid and over an invalid STEP. -/
theorem test_reset_wins : edge 3#2 true true 0b1001#4 (0#2, false, false, false) 0b0000#4 = true ∧
    edge 2#2 true true 0b1010#4 (0#2, false, false, false) 0b0000#4 = true := by decide

/-- The strobes of the cycle before do not outlive an edge (R14, R15, R75's example). -/
theorem test_strobes_are_rewritten :
    nextIs (step { at' 1#2 true [⟨false, 0b0000#4⟩] with emit := true, err := true })
      (fun t => decide (t.registers = (1#2, true, false, false))) = true := by decide

/-- A command placed at reset is the one the first edge runs: the table's six rows, canonical words. -/
theorem test_placed_word_runs_first :
    nextIs (step (State.reset.withFetchWord 8 0)) (fun t => decide (t.registers = (0#2, false, false, false))) = true ∧
    nextIs (step (State.reset.withFetchWord 8 8)) (fun t => decide (t.registers = (0#2, false, false, true))) = true ∧
    nextIs (step (State.reset.withFetchWord 8 9)) (fun t => decide (t.registers = (1#2, true, true, false))) = true ∧
    nextIs (step (State.reset.withFetchWord 8 10)) (fun t => decide (t.registers = (0#2, false, false, true))) = true ∧
    nextIs (step (State.reset.withFetchWord 8 11)) (fun t => decide (t.registers = (3#2, true, true, false))) = true ∧
    nextIs (step (State.reset.withFetchWord 8 12)) (fun t => decide (t.registers = (0#2, false, true, false))) = true := by decide

/-- S5 on the source's Sequencer: `step(-1)` at 0 applies entry 3, `step(2)` is rejected. -/
theorem test_sequencer_calls : sequencerCall romDefault (.step (-1)) sequencerCreate = (⟨3⟩, .apply 0b1001#4) ∧
    sequencerCall romDefault (.step 2) ⟨1⟩ = (⟨1⟩, .invalidDirection) := by decide

/-- R82: the cause numbers. -/
theorem test_cause_numbers : (at' 0#2 false []).cause = 0 ∧ ((at' 0#2 false []).raise .invalidDirection).cause = 1 := by decide

/-! ## Witnesses: the hypotheses of the statements can be met -/

theorem witness_PortCarriesTwoBitsOfAnInteger : ((-2 : Int) ≤ -2 ∧ (-2 : Int) ≤ 2) ∧ ((-2 : Int) ≤ 2 ∧ (2 : Int) ≤ 2) ∧
    (-3 : Int) % 2 = 1 ∧ ((3 : Int) ≠ 1 ∧ (3 : Int) ≠ -1) := by decide

theorem witness_DeltaIsValidityAndAddend : cmdV 0b1000#4 = true ∧ cmdOp 0b1000#4 = false ∧
    cmdV 0b1011#4 = true ∧ cmdOp 0b1011#4 = false ∧ validDirection (cmdDelta 0b1011#4) = true := by decide

theorem witness_FieldsSelectTheOperation : cmdV 0b1000#4 = true ∧ cmdOp 0b1000#4 = false ∧ cmdV 0b1100#4 = true ∧
    cmdOp 0b1100#4 = true ∧ cmdV 0b0111#4 = false := by decide

/-- Meets the word hypotheses of EveryWordDecodesByItsRow, IgnoredBitsDoNotMatter, IdleClearsTheStrobesAndHoldsTheLines,
StopDeEnergisesAndKeepsThePhase and IdleMayBeInsertedAnywhere. -/
theorem witness_word_classes : (0b0111#4).getLsbD 3 = false ∧ (0b0000#4).getLsbD 3 = false ∧
    ((0b1100#4).getLsbD 3 = true ∧ (0b1100#4).getLsbD 2 = true) ∧
    ((0b1111#4).getLsbD 3 = true ∧ (0b1111#4).getLsbD 2 = true) := by decide

theorem witness_StepRunsTheDecodedCommand : (at' 3#2 true [⟨false, 0b1111#4⟩]).rst = false ∧
    decode (at' 3#2 true [⟨false, 0b1111#4⟩]).cmd = .stop := by decide

/-- Meets the premises of the clauses of PhaseIsWrittenByValidStepAndReset, EnIsSetByValidStepAndClearedByStopAndReset,
ResetEdgeClearsEveryRegister and OnlyResetChangesTheLinesSilently, one state per clause. -/
theorem witness_edges : (at' 3#2 true [⟨true, 0b1001#4⟩]).rst = true ∧
    ((at' 3#2 true [⟨false, 0b1001#4⟩]).rst = false ∧ decode (at' 3#2 true [⟨false, 0b1001#4⟩]).cmd = .stepCw) ∧
    ((at' 0#2 true [⟨false, 0b1011#4⟩]).rst = false ∧ decode (at' 0#2 true [⟨false, 0b1011#4⟩]).cmd = .stepCcw) ∧
    ((at' 0#2 true [⟨false, 0b1000#4⟩]).rst = false ∧ decode (at' 0#2 true [⟨false, 0b1000#4⟩]).cmd = .stepInv0) ∧
    ((at' 0#2 true [⟨false, 0b1010#4⟩]).rst = false ∧ decode (at' 0#2 true [⟨false, 0b1010#4⟩]).cmd = .stepInv2) ∧
    ((at' 0#2 true [⟨false, 0b0000#4⟩]).rst = false ∧ decode (at' 0#2 true [⟨false, 0b0000#4⟩]).cmd = .idle) ∧
    ((at' 0#2 true [⟨false, 0b1100#4⟩]).rst = false ∧ decode (at' 0#2 true [⟨false, 0b1100#4⟩]).cmd = .stop) := by decide

/-- OnlyResetChangesTheLinesSilently: an edge that changes phase and lines with an emission, and one that does so by reset. -/
theorem witness_OnlyResetChangesTheLinesSilently :
    nextIs (step (at' 3#2 true [⟨false, 0b1001#4⟩]))
      (fun t => decide (t.phase ≠ 3#2 ∧ t.coil romDefault ≠ 0b1001#4 ∧ t.emit = true)) = true ∧
    nextIs (step (at' 3#2 true [⟨true, 0b0000#4⟩]))
      (fun t => decide (t.phase ≠ 3#2 ∧ t.coil romDefault ≠ 0b1001#4 ∧ t.emit = false)) = true := by decide

/-- StrobesTellTheLastCommand: `emit` with `en` 1 and with `en` 0. -/
theorem witness_StrobesTellTheLastCommand :
    nextIs (step (at' 0#2 false [⟨false, 0b1001#4⟩])) (fun t => t.emit && t.en) = true ∧
    nextIs (step (at' 0#2 true [⟨false, 0b1101#4⟩])) (fun t => t.emit && !t.en) = true := by decide

/-- StepCwAdvancesAndEmitsTheNewEntry and StepCcwReturnsAndEmitsTheNewEntry: the two ends of the phase range. -/
theorem witness_wrap_phases : (at' 3#2 true []).phase = 3#2 ∧ (at' 0#2 false []).phase = 0#2 := by decide

theorem witness_PhaseAdderIsModuloFour : validDirection 0b01#2 = true ∧ validDirection 0b11#2 = true ∧
    validDirection 0b00#2 = false ∧ validDirection 0b10#2 = false := by decide

theorem witness_OutputsSeeTheRomAtThePhaseOnly :
    ((at' 1#2 true []).en = true → romDefault.read (at' 1#2 true []).phase =
      (Rom.mk 0b0000#4 0b0110#4 0b0000#4 0b0000#4).read (at' 1#2 true []).phase) := by decide

/-- Meets `RomValid` in LinesNeverShortABridge, EachStepFlipsExactlyOneCoil, ConsecutiveEmissionsFlipOneCoil,
ResumeStepsFromTheKeptPhase, and V2 in DrivenCoilsAreNotShorted. -/
theorem witness_valid_rom : RomValid romDefault ∧ romDefault.V2 := by decide

theorem witness_RaiseReportsAndChangesNothingElse : (at' 0#2 false []).err = false ∧
    ({ at' 0#2 false [] with err := true } : State).err = true := by decide

theorem witness_OnlyInvalidStepsRaise :
    nextIs (exec .stepInv2 (at' 3#2 true [])) (fun t => t.err) = true := by decide

/-- ErrorsPulseOncePerInvalidStep: two invalid STEPs in a row (K13), then a command that is none. -/
theorem witness_ErrorsPulseOncePerInvalidStep :
    (NoReset 2 (at' 1#2 true [⟨false, 0b1000#4⟩, ⟨false, 0b1010#4⟩]) ∧
      ∀ j : Nat, j < 2 → (at' 1#2 true [⟨false, 0b1000#4⟩, ⟨false, 0b1010#4⟩]).commandAt j = .stepInv0 ∨
        (at' 1#2 true [⟨false, 0b1000#4⟩, ⟨false, 0b1010#4⟩]).commandAt j = .stepInv2) ∧
    ((at' 1#2 true [⟨false, 0b1001#4⟩]).commandAt 0 ≠ .stepInv0 ∧ (at' 1#2 true [⟨false, 0b1001#4⟩]).commandAt 0 ≠ .stepInv2) ∧
    (at' 1#2 true [⟨true, 0b1000#4⟩]).rst = true := by decide

theorem witness_ResetOverridesTheCommand :
    ∀ j : Nat, j < 2 → ((at' 1#2 true [⟨true, 0b1000#4⟩, ⟨true, 0b1001#4⟩]).pinsAt j).rst = true := by decide

theorem witness_FirstStepAfterResetEmitsEntryOneOrThree :
    ∀ i ∈ [Instr.idle, .stop, .stepInv0, .stepInv2], i ≠ .stepCw ∧ i ≠ .stepCcw := by decide

/-- FourStepsCloseTheCycle, both directions; also NoReset in PhaseCountsTheSteps and LinesCarryTheLastEmission, and
ConsecutiveEmissionsFlipOneCoil's premises on commands and strobes. -/
theorem witness_four_steps :
    (NoReset 4 (at' 2#2 true (List.replicate 4 ⟨false, 0b1001#4⟩)) ∧
      ∀ j : Nat, j < 4 → (at' 2#2 true (List.replicate 4 ⟨false, 0b1001#4⟩)).commandAt j = .stepCw) ∧
    (NoReset 4 (at' 2#2 true (List.replicate 4 ⟨false, 0b1011#4⟩)) ∧
      ∀ j : Nat, j < 4 → (at' 2#2 true (List.replicate 4 ⟨false, 0b1011#4⟩)).commandAt j = .stepCcw) ∧
    (∀ j : Nat, j < 4 → (at' 2#2 true (List.replicate 4 ⟨false, 0b1001#4⟩)).commandAt j ≠ .stop) ∧
    (at' 2#2 true []).emit = false := by decide

theorem witness_PhaseCountsTheSteps :
    1 = commandCount .stepCw 3 (at' 3#2 true [⟨false, 0b1001#4⟩, ⟨false, 0b1011#4⟩, ⟨false, 0b1010#4⟩]) ∧
    2 = 1 + commandCount .stepCcw 3 (at' 3#2 true [⟨false, 0b1001#4⟩, ⟨false, 0b1011#4⟩, ⟨false, 0b1010#4⟩]) := by decide

/-- ConsecutiveEmissionsFlipOneCoil: a run with two emissions, the two words of S2's row 0. -/
theorem witness_ConsecutiveEmissionsFlipOneCoil :
    emissionTrace romDefault 2 (at' 0#2 false [⟨false, 0b1001#4⟩, ⟨false, 0b1011#4⟩]) =
      [] ++ 0b0110#4 :: 0b1010#4 :: [] := by decide

/-- StopIsIdempotent: STOP with IDLE between, and STOP in consecutive cycles. -/
theorem witness_StopIsIdempotent :
    (NoReset 3 (at' 2#2 true [⟨false, 0b1100#4⟩, ⟨false, 0b0011#4⟩, ⟨false, 0b1111#4⟩]) ∧
      ∀ j : Nat, j < 3 →
        (at' 2#2 true [⟨false, 0b1100#4⟩, ⟨false, 0b0011#4⟩, ⟨false, 0b1111#4⟩]).commandAt j = .stop ∨
        (at' 2#2 true [⟨false, 0b1100#4⟩, ⟨false, 0b0011#4⟩, ⟨false, 0b1111#4⟩]).commandAt j = .idle) ∧
    (∀ j : Nat, j < 2 → (at' 2#2 true [⟨false, 0b1100#4⟩, ⟨false, 0b1101#4⟩]).commandAt j = .stop) := by decide

/-- StepDependsOnThePhaseOnly: two states that share the phase and nothing else of the registers. -/
theorem witness_StepDependsOnThePhaseOnly :
    (at' 2#2 true []).phase = ({ at' 2#2 false [] with emit := true, err := true } : State).phase := by decide

theorem witness_ResumeStepsFromTheKeptPhase : (at' 2#2 false []).en = false := by decide

theorem witness_AnyIntegerStepsOrIsRejected : ((-1 : Int) = 1 ∨ (-1 : Int) = -1) ∧ (5 : Int) ≠ 1 ∧ (5 : Int) ≠ -1 := by decide

theorem witness_EveryStepKeepsStrobesExclusive : StrobesExclusive { at' 0#2 true [⟨false, 0b1000#4⟩] with emit := true } ∧
    nextIs (step { at' 0#2 true [⟨false, 0b1000#4⟩] with emit := true }) (fun t => t.err) = true := by decide

/-- ObservationDependsOnRegistersAndPorts: another cycle number and another schedule after the run. -/
theorem witness_ObservationDependsOnRegistersAndPorts :
    (at' 0#2 true [⟨false, 0b1001#4⟩]).registers =
      ({ at' 0#2 true [⟨false, 0b1001#4⟩, ⟨true, 0b0000#4⟩] with cycle := 9 } : State).registers ∧
    ∀ j : Nat, j < 1 → (at' 0#2 true [⟨false, 0b1001#4⟩]).pinsAt j =
      ({ at' 0#2 true [⟨false, 0b1001#4⟩, ⟨true, 0b0000#4⟩] with cycle := 9 } : State).pinsAt j := by decide

/-- GhostFlagRecordsInvalidSteps: P4's first error, and a run without one. -/
theorem witness_GhostFlagRecordsInvalidSteps :
    errEver 2 (at' 0#2 false [⟨false, 0b1001#4⟩, ⟨false, 0b1000#4⟩]) = true ∧
    errEver 1 (at' 0#2 false [⟨false, 0b1001#4⟩]) = false := by decide

/-- LinesCarryTheLastEmission from reset, with no command yet and with one. -/
theorem witness_LinesCarryTheLastEmission : NoReset 0 (State.reset.schedule []) ∧
    NoReset 1 (State.reset.schedule [⟨false, 0b1011#4⟩]) := by decide

theorem witness_HardwareRunsTheSequencersCalls : State.reset.emit = false ∧ State.reset.err = false ∧
    sequencerCreate.index = (State.reset.phase.toNat : Int) ∧
    [⟨false, 0b0000#4⟩, ⟨false, 0b1011#4⟩, ⟨false, 0b0000#4⟩, ⟨false, 0b1100#4⟩] =
      List.replicate 1 Instr.idle.line ++ callLines [(.step (-1), 1), (.stop, 0)] := by decide

/-- R91: an edge of block 1 moves block 1 by its own command and leaves block 0; after reset each block has its own host. -/
theorem test_instance_steps_alone :
    ((stepInstance 1 [at' 2#2 true [⟨false, 0b1001#4⟩], at' 0#2 false [⟨false, 0b1011#4⟩]]).map fun b => b.map State.registers) =
      some [(2#2, true, false, false), (3#2, true, true, false)] ∧
    (bankReset 3).map State.host = [0, 1, 2] := by decide

theorem witness_InstancesDoNotInteract : [at' 0#2 true [], at' 1#2 true []][1]? = some (at' 1#2 true []) := by decide

theorem witness_InterleavedInstancesRunAsIfAlone : (∀ i ∈ [1, 0, 1], i < [at' 0#2 true [], at' 1#2 true []].length) ∧
    [at' 0#2 true [], at' 1#2 true []][1]? = some (at' 1#2 true []) := by decide

/-- EveryInstanceKeepsItsOwnHost: a bank whose blocks have their own hosts, and an edge of one of them. -/
theorem witness_EveryInstanceKeepsItsOwnHost :
    (let bank := [(at' 1#2 true [⟨false, 0b1001#4⟩]).drivenBy 0, (at' 2#2 true [⟨false, 0b1000#4⟩]).drivenBy 1]
    (bank.map State.host = [0, 1]) ∧ (stepInstance 1 bank).isSome = true) := by decide

end Sys2Proof.Tests
end

section
/-! SUPPORT. What an edge can do, as one case per row of the opcode table and one for reset; the port values after it. -/

namespace Sys2Proof.Machine

/-- What one edge can do: the state it starts from, the premise on the ports, the state it leaves (R18, R96, R97). -/
inductive EdgeCase (s : State) : State → Prop
  | reset (hr : s.rst = true) : EdgeCase s s.resetEdge.tick
  | idle (hr : s.rst = false) (hc : decode s.cmd = .idle) : EdgeCase s s.strobeNone.tick
  | stepInv0 (hr : s.rst = false) (hc : decode s.cmd = .stepInv0) : EdgeCase s s.strobeErr.tick
  | stepCw (hr : s.rst = false) (hc : decode s.cmd = .stepCw) : EdgeCase s (s.emitTable (s.phase + 0b01#2)).tick
  | stepInv2 (hr : s.rst = false) (hc : decode s.cmd = .stepInv2) : EdgeCase s s.strobeErr.tick
  | stepCcw (hr : s.rst = false) (hc : decode s.cmd = .stepCcw) : EdgeCase s (s.emitTable (s.phase + 0b11#2)).tick
  | stop (hr : s.rst = false) (hc : decode s.cmd = .stop) : EdgeCase s s.emitLow.tick

theorem step_of_edgeCase {s t : State} (h : EdgeCase s t) : step s = .next t := by
  cases h with
  | reset hr => exact step_of_rst hr
  | idle hr hc | stepInv0 hr hc | stepCw hr hc | stepInv2 hr hc | stepCcw hr hc | stop hr hc =>
    exact step_of_exec hr (by rw [hc]; rfl)

theorem edgeCase_of_step {s t : State} (h : step s = .next t) : EdgeCase s t := by
  obtain ⟨hr, rfl⟩ | ⟨hr, u, hu, rfl⟩ := step_cases h
  · exact .reset hr
  · obtain ⟨hc, rfl⟩ | ⟨hc | hc, rfl⟩ | ⟨hc, rfl⟩ | ⟨hc, rfl⟩ | ⟨hc, rfl⟩ := exec_cases hu
    · exact .idle hr hc
    · exact .stepInv0 hr hc
    · exact .stepInv2 hr hc
    · exact .stepCw hr hc
    · exact .stepCcw hr hc
    · exact .stop hr hc

theorem exec_total (i : Instr) (s : State) : ∃ t, exec i s = .next t := by
  cases i <;> exact ⟨_, rfl⟩

/-- `next` is total (10_state.md section 8), and what it answers is one of the cases of an edge. -/
theorem step_total (s : State) : ∃ t, step s = .next t ∧ EdgeCase s t := by
  have ⟨t, ht⟩ : ∃ t, step s = .next t := by
    cases hr : s.rst
    · obtain ⟨u, hu⟩ := exec_total (decode s.cmd) s
      exact ⟨_, step_of_exec hr hu⟩
    · exact ⟨_, step_of_rst hr⟩
  exact ⟨t, ht, edgeCase_of_step ht⟩

/-- An edge moves the port values by one cycle, whatever it does to the registers. -/
theorem pinsAt_of_edgeCase {s t : State} (h : EdgeCase s t) (j : Nat) : t.pinsAt j = s.pinsAt (j + 1) := by
  cases h <;> exact (pinsAt_tick _ j).trans (pinsAt_congr rfl rfl rfl _)

/-- R13: no register but `en` has a next value that depends on `en`. -/
theorem next_ignores_en_of_edgeCase {s t : State} (h : EdgeCase s t) (b : Bool) :
    ∃ u, step { s with en := b } = .next u ∧ u.phase = t.phase ∧ u.emit = t.emit ∧ u.err = t.err := by
  cases h with
  | reset hr => exact ⟨_, step_of_edgeCase (.reset hr), rfl, rfl, rfl⟩
  | idle hr hc => exact ⟨_, step_of_edgeCase (.idle hr hc), rfl, rfl, rfl⟩
  | stepInv0 hr hc => exact ⟨_, step_of_edgeCase (.stepInv0 hr hc), rfl, rfl, rfl⟩
  | stepCw hr hc => exact ⟨_, step_of_edgeCase (.stepCw hr hc), rfl, rfl, rfl⟩
  | stepInv2 hr hc => exact ⟨_, step_of_edgeCase (.stepInv2 hr hc), rfl, rfl, rfl⟩
  | stepCcw hr hc => exact ⟨_, step_of_edgeCase (.stepCcw hr hc), rfl, rfl, rfl⟩
  | stop hr hc => exact ⟨_, step_of_edgeCase (.stop hr hc), rfl, rfl, rfl⟩

end Sys2Proof.Machine
end

section
/-! SUPPORT. The ROM's words and the coil lines. -/

namespace Sys2Proof

theorem Rom.read_cases (rom : Rom) (i : Phase) :
    rom.read i = rom.word0 ∨ rom.read i = rom.word1 ∨ rom.read i = rom.word2 ∨ rom.read i = rom.word3 := by
  unfold Rom.read
  split_ifs <;> simp

/-- The all-LOW pattern shorts nothing. -/
theorem noShort_low : NoShort 0b0000#4 := by decide

end Sys2Proof

namespace Sys2Proof.Machine

theorem State.coil_of_en {s : State} (h : s.en = true) (rom : Rom) : s.coil rom = rom.read s.phase := if_pos h

theorem State.coil_of_not_en {s : State} (h : s.en = false) (rom : Rom) : s.coil rom = 0b0000#4 := by
  simp [State.coil, h]

/-- R19: the lines are a function of `phase` and `en` alone. -/
theorem coil_congr {s t : State} (hp : t.phase = s.phase) (he : t.en = s.en) (rom : Rom) : t.coil rom = s.coil rom := by
  simp [State.coil, hp, he]

/-- The lines are LOW or show the ROM word at the phase. -/
theorem coil_cases (rom : Rom) (s : State) : s.coil rom = 0b0000#4 ∨ s.coil rom = rom.read s.phase := by
  cases h : s.en
  · exact .inl (State.coil_of_not_en h rom)
  · exact .inr (State.coil_of_en h rom)

@[simp] theorem State.outputs_coil (rom : Rom) (s : State) : (s.outputs rom).coil = s.coil rom := rfl
@[simp] theorem State.outputs_emit (rom : Rom) (s : State) : (s.outputs rom).emit = s.emit := rfl
@[simp] theorem State.outputs_err (rom : Rom) (s : State) : (s.outputs rom).err = s.err := rfl
@[simp] theorem State.outputs_phaseO (rom : Rom) (s : State) : (s.outputs rom).phaseO = s.phase := rfl

@[simp] theorem reset_coil (rom : Rom) : State.reset.coil rom = 0b0000#4 := State.coil_of_not_en rfl rom

/-- Without reset, an edge that emits nothing leaves the lines as they were (R23). -/
theorem coil_of_silent_edge {s t : State} (h : EdgeCase s t) (hr : s.rst = false) (he : t.emit = false) (rom : Rom) :
    t.coil rom = s.coil rom := by
  cases h with
  | reset hr' => simp [hr] at hr'
  | idle | stepInv0 | stepInv2 => exact coil_congr rfl rfl rom
  | stepCw | stepCcw | stop => simp at he

end Sys2Proof.Machine
end

section
/-! SUPPORT. The emission trace (R20) taken apart at its first cycle. -/

namespace Sys2Proof.Machine

/-- A run without reset begins with an edge without reset and goes on as a run without reset. -/
theorem noReset_succ {s t : State} {k : Nat} (hn : NoReset (k + 1) s) (h : EdgeCase s t) :
    s.rst = false ∧ NoReset k t := by
  refine ⟨hn 0 k.succ_pos, fun j hj => ?_⟩
  rw [pinsAt_of_edgeCase h]
  exact hn (j + 1) (Nat.succ_lt_succ hj)

theorem emissionTrace_zero (rom : Rom) (s : State) :
    emissionTrace rom 0 s = if s.emit then [s.coil rom] else [] := by
  cases h : s.emit <;> simp [emissionTrace, h]

theorem emissionTrace_succ {s t : State} (h : step s = .next t) (rom : Rom) (k : Nat) :
    emissionTrace rom (k + 1) s = (if s.emit then [s.coil rom] else []) ++ emissionTrace rom k t := by
  cases he : s.emit <;> simp [emissionTrace, cycles_succ h, he]

/-- The trace of a run that starts with an emission is not empty. -/
theorem emissionTrace_ne_nil {s : State} (he : s.emit = true) (rom : Rom) (k : Nat) : emissionTrace rom k s ≠ [] := by
  cases k with
  | zero => simp [emissionTrace_zero, he]
  | succ k =>
    obtain ⟨t, ht, -⟩ := step_total s
    simp [emissionTrace_succ ht, he]

/-- The last pattern of a run, or what the lines carried before its first edge, is that of the run from the second cycle on. -/
theorem lastEmission_succ {s t : State} (h : EdgeCase s t) (hr : s.rst = false) (rom : Rom) (k : Nat) :
    ((emissionTrace rom (k + 1) s).getLast?).getD (s.coil rom) = ((emissionTrace rom k t).getLast?).getD (t.coil rom) := by
  rw [emissionTrace_succ (step_of_edgeCase h)]
  cases he : t.emit with
  | true =>
    rw [List.getLast?_append_of_ne_nil _ (emissionTrace_ne_nil he rom k),
      List.getLast?_eq_some_getLast (emissionTrace_ne_nil he rom k)]
    rfl
  | false =>
    rw [coil_of_silent_edge h hr he, List.getLast?_append]
    cases (emissionTrace rom k t).getLast? <;> cases s.emit <;> rfl

/-- R23, by induction on the edges: the lines carry the last emission, or what they carried at the start. -/
theorem run_coil_eq_lastEmission (rom : Rom) (k : Nat) (s : State) (hn : NoReset k s) :
    ∃ t, RunsTo k s t ∧ t.coil rom = ((emissionTrace rom k s).getLast?).getD (s.coil rom) := by
  induction k generalizing s with
  | zero =>
    refine ⟨s, rfl, ?_⟩
    rw [emissionTrace_zero]
    cases s.emit <;> rfl
  | succ k ih =>
    obtain ⟨t, ht, h⟩ := step_total s
    obtain ⟨hr, hnt⟩ := noReset_succ hn h
    obtain ⟨u, hu, hcoil⟩ := ih t hnt
    exact ⟨u, (runsTo_succ ht k u).2 hu, by rw [hcoil, lastEmission_succ h hr]⟩

end Sys2Proof.Machine
end

section
/-! The statements about the registers, the lines and the reset values (10_state.md). -/

namespace Sys2Proof.Machine

/-- Settles O20, by the cases of an edge; the last clause is `next_ignores_en_of_edgeCase`. -/
theorem enIsSetByValidStepAndClearedByStopAndReset : Obligations.EnIsSetByValidStepAndClearedByStopAndReset := by
  intro s
  obtain ⟨t, ht, h⟩ := step_total s
  have hen := next_ignores_en_of_edgeCase h
  refine ⟨t, ht, ?_⟩
  cases h with
  | reset hr => simpa [hr] using hen
  | idle hr hc | stepInv0 hr hc | stepCw hr hc | stepInv2 hr hc | stepCcw hr hc | stop hr hc =>
    simpa [hr, hc] using hen

/-- Settles O28: the lines are LOW or a ROM word, and neither shorts a bridge when V1 holds. -/
theorem linesNeverShortABridge : Obligations.LinesNeverShortABridge := by
  intro rom s
  obtain h | h := coil_cases rom s <;> rw [h]
  · exact ⟨.inl rfl, fun _ => noShort_low⟩
  · exact ⟨.inr (rom.read_cases s.phase), fun ⟨hV1, _⟩ => hV1 s.phase⟩

/-- Settles O56: `run_coil_eq_lastEmission`, and from reset the lines start LOW. -/
theorem linesCarryTheLastEmission : Obligations.LinesCarryTheLastEmission := by
  refine ⟨run_coil_eq_lastEmission, fun rom k ps hn => ?_⟩
  have h := run_coil_eq_lastEmission rom k (State.reset.schedule ps) hn
  rwa [State.schedule_coil, reset_coil] at h

/-- Settles O19, by the cases of an edge. -/
theorem phaseIsWrittenByValidStepAndReset : Obligations.PhaseIsWrittenByValidStepAndReset := by
  intro s
  obtain ⟨t, ht, h⟩ := step_total s
  refine ⟨t, ht, ?_⟩
  cases h with
  | reset hr => simp [hr]
  | idle hr hc | stepInv0 hr hc | stepInv2 hr hc | stop hr hc => simp [hr, hc]
  | stepCw hr hc | stepCcw hr hc => simp [hr, hc, BitVec.toNat_add]

/-- Settles O21, by the cases of an edge. -/
theorem emitReportsExactlyTheEmittingCommands : Obligations.EmitReportsExactlyTheEmittingCommands := by
  intro s
  obtain ⟨t, ht, h⟩ := step_total s
  refine ⟨t, ht, ?_⟩
  cases h with
  | reset hr => simp [hr]
  | idle hr hc | stepInv0 hr hc | stepCw hr hc | stepInv2 hr hc | stepCcw hr hc | stop hr hc => simp [hr, hc]

/-- Settles O22, by the cases of an edge. -/
theorem errReportsExactlyTheInvalidSteps : Obligations.ErrReportsExactlyTheInvalidSteps := by
  intro s
  obtain ⟨t, ht, h⟩ := step_total s
  refine ⟨t, ht, ?_⟩
  cases h with
  | reset hr => simp [hr]
  | idle hr hc | stepInv0 hr hc | stepCw hr hc | stepInv2 hr hc | stepCcw hr hc | stop hr hc => simp [hr, hc]

/-- Settles O24: the multiplexer as R19 writes it is `State.coil` over `Rom.read`. -/
theorem outputMultiplexer : Obligations.OutputMultiplexer := by
  intro rom s
  refine ⟨?_, State.outputs_phaseO rom s, State.outputs_emit rom s, State.outputs_err rom s⟩
  rw [State.outputs_coil]
  rfl

/-- Settles O34: the registers by evaluation, the lines by `reset_coil`. -/
theorem resetStateHoldsTheResetValues : Obligations.ResetStateHoldsTheResetValues :=
  ⟨rfl, rfl, rfl, rfl, fun rom => ⟨reset_coil rom, State.outputs_phaseO rom State.reset⟩⟩

end Sys2Proof.Machine
end

section
/-! SUPPORT. The decoder and the encoder by the fields of the word (R46 to R49) and by the rows of the opcode table (R50). -/

namespace Sys2Proof

theorem decode_of_not_cmdV {w : Cmd} (hv : cmdV w = false) : decode w = .idle := if_pos hv

theorem decode_of_cmdOp {w : Cmd} (hv : cmdV w = true) (ho : cmdOp w = true) : decode w = .stop := by
  simp [decode, hv, ho]

theorem decode_of_not_cmdOp {w : Cmd} (hv : cmdV w = true) (ho : cmdOp w = false) :
    decode w = decodeStep (cmdDelta w) := by
  simp [decode, hv, ho]

theorem delta_cases : ∀ d : Delta, d = 0b00#2 ∨ d = 0b01#2 ∨ d = 0b10#2 ∨ d = 0b11#2 := by decide

/-- The word of `step` with the two bits `d` in the field `delta`. -/
theorem decode_stepWord (d : Delta) : decode (0b10#2 ++ d) = decodeStep d := by
  obtain rfl | rfl | rfl | rfl := delta_cases d <;> rfl

theorem decodeStep_of_bit_zero {d : Delta} (h : d.getLsbD 0 = true) : decodeStep d = .stepCw ∨ decodeStep d = .stepCcw := by
  obtain rfl | rfl | rfl | rfl := delta_cases d
  · cases h
  · exact .inl rfl
  · cases h
  · exact .inr rfl

/-- The low bit of an odd integer survives its truncation to two bits (R49). -/
theorem ofInt_bit_zero_of_odd {d : Int} (hd : d % 2 = 1) : (BitVec.ofInt 2 d).getLsbD 0 = true := by
  have hmod : (BitVec.ofInt 2 d).toNat = (d % 4).toNat := BitVec.toNat_ofInt d
  rw [← BitVec.testBit_toNat, Nat.testBit_zero, decide_eq_true_iff]
  omega

/-- What each class's canonical word is, for all classes at once. -/
theorem canonical (i : Instr) : Laws.Canonical.Statement i := by
  cases i with
  | idle => exact Laws.Canonical.idle
  | stepInv0 => exact Laws.Canonical.stepInv0
  | stepCw => exact Laws.Canonical.stepCw
  | stepInv2 => exact Laws.Canonical.stepInv2
  | stepCcw => exact Laws.Canonical.stepCcw
  | stop => exact Laws.Canonical.stop

@[simp] theorem decode_encode (i : Instr) : decode (encode i) = i := by
  obtain ⟨_, _, h, _⟩ := canonical i
  exact h

/-- Every word selects the row of its class, so the rows cover all words. -/
theorem and_rowMask_decode : ∀ w : Cmd, w &&& (decode w).rowMask = (decode w).rowMatch := by decide

/-- A word selects no row but that of its class, so the rows are disjoint. -/
theorem decode_of_and_rowMask (i : Instr) : ∀ w : Cmd, w &&& i.rowMask = i.rowMatch → decode w = i := by
  cases i with
  | idle | stepInv0 | stepCw | stepInv2 | stepCcw | stop => decide

theorem decode_eq_iff_and_rowMask (w : Cmd) (i : Instr) : decode w = i ↔ w &&& i.rowMask = i.rowMatch := by
  constructor
  · rintro rfl
    exact and_rowMask_decode w
  · exact decode_of_and_rowMask i w

theorem disassemble_canonical_iff (w : Cmd) : (disassemble w).2 = false ↔ ∃ i : Instr, w = encode i := by
  have hmark : (disassemble w).2 = false ↔ w = encode (decode w) := by simp [disassemble]
  rw [hmark]
  constructor
  · exact fun h => ⟨_, h⟩
  · rintro ⟨i, rfl⟩
    rw [decode_encode]

theorem stepInstr_of_not_direction {d : Int} (h₁ : d ≠ 1) (h₂ : d ≠ -1) :
    stepInstr d = .stepInv0 ∨ stepInstr d = .stepInv2 := by
  rw [stepInstr, if_neg h₁, if_neg h₂]
  split
  · exact .inr rfl
  · exact .inl rfl

end Sys2Proof

namespace Sys2Proof.Machine

theorem validDirection_eq_bit_zero : ∀ d : Delta, validDirection d = d.getLsbD 0 := by decide

theorem exec_decodeStep (d : Delta) (s : State) : exec (decodeStep d) s = .next (s.stepBy d) := by
  obtain rfl | rfl | rfl | rfl := delta_cases d <;> rfl

/-- R46, R47: a word with `v = 1` and `op = 0` is `step` of its own `delta`. -/
theorem exec_decode_step {w : Cmd} (hv : cmdV w = true) (ho : cmdOp w = false) (s : State) :
    exec (decode w) s = .next (s.stepBy (cmdDelta w)) := by
  rw [decode_of_not_cmdOp hv ho, exec_decodeStep]

theorem stepBy_of_valid {d : Delta} (h : validDirection d = true) (s : State) : s.stepBy d = s.emitTable (s.phase + d) := by
  obtain ⟨_, hs⟩ | ⟨hn, _⟩ := stepBy_cases s d
  · exact hs
  · simp [h] at hn

/-- A command neither reads nor writes what the ports hold. -/
theorem exec_present {i : Instr} {s u : State} (h : exec i s = .next u) (p : Pins) :
    exec i (s.present p) = .next (u.present p) := by
  cases i <;> cases h <;> rfl

/-- The end of a cycle drops what was presented in it. -/
@[simp] theorem tick_present (s : State) (p : Pins) : (s.present p).tick = s.tick := rfl

/-- The edge that runs a presented word: the effect of the word's class, and the word itself is gone. -/
theorem step_present {w : Cmd} {s u : State} (h : exec (decode w) s = .next u) :
    step (s.present ⟨false, w⟩) = .next u.tick := by
  rw [← tick_present u ⟨false, w⟩]
  exact step_of_exec rfl (exec_present h ⟨false, w⟩)

/-- An edge tells two words of one class from each other in no way (R52). -/
theorem step_present_congr {w w' : Cmd} (h : decode w = decode w') (s : State) :
    step (s.present ⟨false, w⟩) = step (s.present ⟨false, w'⟩) := by
  obtain ⟨u, hu⟩ := exec_total (decode w) s
  rw [step_present hu, step_present (h ▸ hu)]

end Sys2Proof.Machine
end

section
/-! The statements about the encoding of commands (30_encoding.md). -/

namespace Sys2Proof.Machine

/-- Settles O1: the fields give the classes, and `decode_eq_iff_and_rowMask` the rows. -/
theorem everyWordDecodesByItsRow : Obligations.EveryWordDecodesByItsRow :=
  ⟨fun _ => decode_of_not_cmdV, decode_encode .stepInv0, decode_encode .stepCw, decode_encode .stepInv2,
    decode_encode .stepCcw, fun _ => decode_of_cmdOp, decode_eq_iff_and_rowMask⟩

/-- Settles O3: the fields give the class, and the class its effect. -/
theorem fieldsSelectTheOperation : Obligations.FieldsSelectTheOperation := by
  intro s w
  refine ⟨fun hv => ?_, fun hv ho => exec_decode_step hv ho s, fun hv ho => ?_⟩
  · rw [decode_of_not_cmdV hv]
    rfl
  · rw [decode_of_cmdOp hv ho]
    rfl

/-- Settles O4: validity by `validDirection_eq_bit_zero`, the addend by `exec_decode_step` and `stepBy_of_valid`. -/
theorem deltaIsValidityAndAddend : Obligations.DeltaIsValidityAndAddend := by
  refine ⟨rfl, rfl, rfl, rfl, fun d => ⟨decide_eq_true_iff, validDirection_eq_bit_zero d⟩, ⟨rfl, rfl⟩, fun p => ?_,
    fun w s hv ho => ⟨exec_decode_step hv ho s, fun hd => ?_⟩⟩
  · exact (BitVec.sub_eq_add_neg p 1#2).symm
  · rw [exec_decode_step hv ho, stepBy_of_valid hd]
    rfl

/-- Settles O5: the five integers one by one, the odd ones by their low bit. -/
theorem portCarriesTwoBitsOfAnInteger : Obligations.PortCarriesTwoBitsOfAnInteger := by
  refine ⟨fun d hlo hhi => ?_, ⟨rfl, rfl, rfl⟩, fun d hd => ?_, fun d => stepInstr_of_not_direction⟩
  · interval_cases d <;> rfl
  · rw [decode_stepWord]
    exact decodeStep_of_bit_zero (ofInt_bit_zero_of_odd hd)

/-- Settles O6: two IDLE words, or two STOP words, are of one class, so `step_present_congr` applies. -/
theorem ignoredBitsDoNotMatter : Obligations.IgnoredBitsDoNotMatter := by
  refine ⟨rfl, rfl, fun s w w' => ⟨fun hv hv' => ?_, fun hv ho hv' ho' => ?_⟩⟩
  · exact step_present_congr ((decode_of_not_cmdV hv).trans (decode_of_not_cmdV hv').symm) s
  · exact step_present_congr ((decode_of_cmdOp hv ho).trans (decode_of_cmdOp hv' ho').symm) s

/-- Settles O7, by `decode_encode` and `disassemble_canonical_iff`. -/
theorem canonicalWordsRoundTrip : Obligations.CanonicalWordsRoundTrip := by
  refine ⟨fun i => ?_, fun i => ?_, fun w s => ?_, fun w => ⟨rfl, disassemble_canonical_iff w⟩⟩
  · obtain ⟨hwf, _, hdecode, _⟩ := canonical i
    exact ⟨hwf, hdecode⟩
  · rw [decode_encode]
  · rw [decode_encode]

end Sys2Proof.Machine
end

section
/-! SUPPORT. The phase adder (R60), and what a STEP of either validity does (R61 to R64). -/

namespace Sys2Proof

theorem Rom.read_zero (rom : Rom) : rom.read 0#2 = rom.word0 := rfl
theorem Rom.read_one (rom : Rom) : rom.read 1#2 = rom.word1 := rfl
theorem Rom.read_three (rom : Rom) : rom.read 3#2 = rom.word3 := rfl

end Sys2Proof

namespace Sys2Proof.Machine

theorem phaseAdd_toNat (p : Phase) (d : Delta) : (phaseAdd p d).toNat = (p.toNat + d.toNat) % 4 := BitVec.toNat_add p d

/-- The delta `11` subtracts one (R48, R62). -/
theorem phaseAdd_minusOne (p : Phase) : phaseAdd p 0b11#2 = p - 1#2 := (BitVec.sub_eq_add_neg p 1#2).symm

/-- A step counterclockwise undoes one clockwise. -/
theorem phaseAdd_minusOne_phaseAdd_one (p : Phase) : phaseAdd (phaseAdd p 0b01#2) 0b11#2 = p := by
  rw [phaseAdd_minusOne]
  exact BitVec.add_sub_cancel p 1#2

theorem phaseAdd_minusOne_toNat (p : Phase) : ((phaseAdd p 0b11#2).toNat : Int) = ((p.toNat : Int) - 1) % 4 := by
  have h : (phaseAdd p 0b11#2).toNat = (p.toNat + 3) % 4 := phaseAdd_toNat p 0b11#2
  omega

/-- Bit 0 has no carry in. -/
theorem phaseAdd_bit_zero (p : Phase) (d : Delta) : (phaseAdd p d).getLsbD 0 = phaseAddBit0 p d := by
  rw [phaseAdd, BitVec.getLsbD_add Nat.two_pos, BitVec.carry_zero, Bool.xor_false, phaseAddBit0]

/-- The carry into bit 1 is the AND of the two bits 0. -/
theorem phaseAdd_bit_one (p : Phase) (d : Delta) : (phaseAdd p d).getLsbD 1 = phaseAddBit1 p d := by
  have hcarry : BitVec.carry 1 p d false = (p.getLsbD 0 && d.getLsbD 0) := by
    simp [BitVec.carry_succ, Bool.atLeastTwo]
  rw [phaseAdd, BitVec.getLsbD_add Nat.one_lt_two, hcarry, phaseAddBit1, Bool.xor_assoc]

theorem phaseAddBit0_of_valid {d : Delta} (h : validDirection d = true) (p : Phase) :
    phaseAddBit0 p d = !p.getLsbD 0 := by
  rw [validDirection_eq_bit_zero] at h
  rw [phaseAddBit0, h, Bool.xor_true]

theorem phaseAddBit1_one (p : Phase) : phaseAddBit1 p 0b01#2 = (p.getLsbD 1 ^^ p.getLsbD 0) := by
  simp [phaseAddBit1]

theorem phaseAddBit1_minusOne (p : Phase) : phaseAddBit1 p 0b11#2 = (p.getLsbD 1 ^^ !p.getLsbD 0) := by
  simp [phaseAddBit1]

/-- The clamp of a valid step acts only where the sum leaves 0 to 3, and there it wraps (R60). -/
theorem phaseAdd_eq_clampAndWrap {d : Delta} (h : validDirection d = true) (p : Phase) :
    ((phaseAdd p d).toNat : Int) = clampAndWrap p d := by
  have hp : p.toNat < 4 := p.isLt
  have hsum := phaseAdd_toNat p d
  obtain rfl | rfl | rfl | rfl := delta_cases d
  · cases h
  · have hone : toInt2 0b01#2 = 1 := rfl
    simp only [clampAndWrap, hone, hsum, BitVec.toNat_ofNat]
    split_ifs <;> omega
  · cases h
  · have hminus : toInt2 0b11#2 = -1 := rfl
    simp only [clampAndWrap, hminus, hsum, BitVec.toNat_ofNat]
    split_ifs <;> omega

/-- The companion of `stepBy_of_valid`. -/
theorem stepBy_of_invalid {d : Delta} (h : validDirection d = false) (s : State) :
    s.stepBy d = s.raise .invalidDirection := by
  simp [State.stepBy, h]

/-- A valid STEP writes and emits the adder's sum (R61, R62). -/
theorem exec_validStep {d : Delta} (h : validDirection d = true) (s : State) :
    exec (decodeStep d) s = .next (s.emitTable (phaseAdd s.phase d)) := by
  rw [exec_decodeStep, stepBy_of_valid h, phaseAdd]

/-- An invalid STEP raises, and the sum is discarded (R63, R64). -/
theorem exec_invalidStep {d : Delta} (h : validDirection d = false) (s : State) :
    exec (decodeStep d) s = .next (s.raise .invalidDirection) := by
  rw [exec_decodeStep, stepBy_of_invalid h]

/-- An emission from the table shows the entry at the new phase. -/
@[simp] theorem emitTable_coil (p : Phase) (s : State) (rom : Rom) : (s.emitTable p).coil rom = rom.read p :=
  State.coil_of_en rfl rom

/-- A report leaves the lines as they are (R81). -/
@[simp] theorem raise_coil (e : Exn) (s : State) (rom : Rom) : (s.raise e).coil rom = s.coil rom :=
  coil_congr (State.raise_phase e s) (State.raise_en e s) rom

/-- The lines and `phase_o` after a report. -/
theorem raise_keeps_lines (e : Exn) (s : State) (rom : Rom) :
    (s.raise e).coil rom = s.coil rom ∧ ((s.raise e).outputs rom).phaseO = (s.outputs rom).phaseO :=
  ⟨raise_coil e s rom, State.raise_phase e s⟩

end Sys2Proof.Machine
end

section
/-! The statements about the STEP family (40_step.md). -/

namespace Sys2Proof.Machine

/-- Settles O13: `exec_validStep` with `delta = 01`. -/
theorem stepCwAdvancesAndEmitsTheNewEntry : Obligations.StepCwAdvancesAndEmitsTheNewEntry := by
  refine ⟨decode_encode .stepCw, fun s => ⟨_, exec_validStep (d := 0b01#2) rfl s, rfl, phaseAdd_toNat s.phase 0b01#2,
    emitTable_coil _ s, fun rom hp => ?_, fun rom hp => ?_⟩⟩
  · rw [hp]
    exact ⟨rfl, (emitTable_coil _ s rom).trans rom.read_zero⟩
  · rw [hp]
    exact ⟨rfl, (emitTable_coil _ s rom).trans rom.read_one⟩

/-- Settles O14: `exec_validStep` with `delta = 11`, and the return by `phaseAdd_minusOne_phaseAdd_one`. -/
theorem stepCcwReturnsAndEmitsTheNewEntry : Obligations.StepCcwReturnsAndEmitsTheNewEntry := by
  refine ⟨decode_encode .stepCcw, fun s => ⟨_, exec_validStep (d := 0b11#2) rfl s, rfl,
    phaseAdd_minusOne_toNat s.phase, fun rom => ?_, fun rom hp => ?_⟩, fun s rom =>
    ⟨_, _, exec_validStep (d := 0b01#2) rfl s, exec_validStep (d := 0b11#2) rfl _,
      phaseAdd_minusOne_phaseAdd_one s.phase, ?_⟩⟩
  · rw [emitTable_coil, phaseAdd_minusOne]
  · rw [hp]
    exact ⟨rfl, (emitTable_coil _ s rom).trans rom.read_three⟩
  · rw [emitTable_coil, State.emitTable_phase, phaseAdd_minusOne_phaseAdd_one]

/-- Settles O15: `exec_invalidStep` with `delta = 00`. -/
theorem stepInv0OnlyReports : Obligations.StepInv0OnlyReports :=
  ⟨decode_encode .stepInv0, fun s => ⟨_, exec_invalidStep (d := 0b00#2) rfl s, rfl, rfl,
    raise_keeps_lines .invalidDirection s, s.strobeNone, rfl, rfl⟩⟩

/-- Settles O16: `exec_invalidStep` with `delta = 10`. -/
theorem stepInv2OnlyReports : Obligations.StepInv2OnlyReports :=
  ⟨decode_encode .stepInv2, fun s => ⟨_, exec_invalidStep (d := 0b10#2) rfl s, rfl, rfl,
    raise_keeps_lines .invalidDirection s⟩⟩

/-- Settles O18: the adder bit by bit and on numbers, and the write-back by the two cases of `step(direction)`. -/
theorem phaseAdderIsModuloFour : Obligations.PhaseAdderIsModuloFour := by
  refine ⟨fun p d => ⟨phaseAdd_toNat p d, phaseAdd_bit_zero p d, phaseAdd_bit_one p d,
      fun h => phaseAdd_eq_clampAndWrap h p, fun h => phaseAddBit0_of_valid h p⟩,
    fun p => ⟨phaseAddBit1_one p, phaseAddBit1_minusOne p⟩, fun s d => ⟨fun h => ?_, fun h => ?_⟩⟩
  · rw [stepBy_of_valid h, State.emitTable_phase, phaseAdd]
  · rw [stepBy_of_invalid h, State.raise_phase]

end Sys2Proof.Machine
end

section
/-! SUPPORT. The two emissions as events (R20), and what can energise the coils (R72). -/

namespace Sys2Proof.Machine

/-- A cycle with `emit` alone reports the pattern on the lines and nothing else. -/
theorem events_of_emit {s : State} (he : s.emit = true) (hr : s.err = false) (rom : Rom) :
    s.events rom = [.apply (s.coil rom)] := by
  simp [State.events, he, hr]

/-- STOP shows LOW whatever the ROM (R70). -/
@[simp] theorem emitLow_coil (s : State) (rom : Rom) : s.emitLow.coil rom = 0b0000#4 :=
  State.coil_of_not_en (State.emitLow_en s) rom

theorem emitLow_events (s : State) (rom : Rom) : s.emitLow.events rom = [.apply 0b0000#4] :=
  (events_of_emit rfl rfl rom).trans (by rw [emitLow_coil])

theorem emitTable_events (p : Phase) (s : State) (rom : Rom) : (s.emitTable p).events rom = [.apply (rom.read p)] :=
  (events_of_emit rfl rfl rom).trans (by rw [emitTable_coil])

/-- A valid STEP leaves its phase: the lowest bit flips (R60). -/
theorem phaseAdd_ne_of_valid {d : Delta} (h : validDirection d = true) (p : Phase) : phaseAdd p d ≠ p := by
  intro heq
  have hflip : p.getLsbD 0 = !p.getLsbD 0 := by
    rw [← phaseAddBit0_of_valid h, ← phaseAdd_bit_zero, heq]
  simp at hflip

/-- R72: a valid STEP after STOP moves from the kept phase and emits the word there, which V4 makes another than the kept one. -/
theorem validStep_after_emitLow {d : Delta} (h : validDirection d = true) (s : State) (rom : Rom) :
    ∃ u, exec (decodeStep d) s.emitLow = .next u ∧ u.phase = phaseAdd s.phase d ∧
      u.events rom = [.apply (rom.read (phaseAdd s.phase d))] ∧ (RomValid rom → u.coil rom ≠ rom.read s.phase) := by
  refine ⟨_, exec_validStep h s.emitLow, rfl, emitTable_events _ _ rom, ?_⟩
  rintro ⟨-, -, -, hV4⟩
  rw [emitTable_coil]
  exact hV4 _ _ (phaseAdd_ne_of_valid h s.phase)

/-- R72: a command that energises the coils moves the phase. -/
theorem phase_ne_of_exec_energises {i : Instr} {s t : State} (h : exec i s = .next t) (hs : s.en = false)
    (ht : t.en = true) : t.phase ≠ s.phase := by
  obtain ⟨-, rfl⟩ | ⟨-, rfl⟩ | ⟨-, rfl⟩ | ⟨-, rfl⟩ | ⟨-, rfl⟩ := exec_cases h
  · simp [hs] at ht
  · simp [hs] at ht
  · exact phaseAdd_ne_of_valid (d := 0b01#2) rfl s.phase
  · exact phaseAdd_ne_of_valid (d := 0b11#2) rfl s.phase
  · simp at ht

end Sys2Proof.Machine
end

section
/-! SUPPORT. Runs without reset whose commands are all of one kind: taken apart at the first edge, and the induction over their
cycles packaged once. -/

namespace Sys2Proof.Machine

/-- An edge is deterministic, so the command decides which case of `EdgeCase` it is. -/
theorem EdgeCase.unique {s t t' : State} (h : EdgeCase s t) (h' : EdgeCase s t') : t = t' := by
  have hstep := step_of_edgeCase h
  rw [step_of_edgeCase h'] at hstep
  exact (Host.Outcome.next.inj hstep).symm

/-- An edge moves the commands to come by one cycle. -/
theorem commandAt_of_edgeCase {s t : State} (h : EdgeCase s t) (j : Nat) : t.commandAt j = s.commandAt (j + 1) := by
  rw [State.commandAt, State.commandAt, pinsAt_of_edgeCase h]

/-- The companion of `noReset_succ`, for the commands of a run. -/
theorem commands_succ {P : Instr → Prop} {s t : State} {k : Nat} (hc : ∀ j : Nat, j < k + 1 → P (s.commandAt j))
    (h : EdgeCase s t) : P (decode s.cmd) ∧ ∀ j : Nat, j < k → P (t.commandAt j) := by
  refine ⟨hc 0 k.succ_pos, fun j hj => ?_⟩
  rw [commandAt_of_edgeCase h]
  exact hc (j + 1) (Nat.succ_lt_succ hj)

/-- The first command is counted, then those of the run from the second cycle on. -/
theorem commandCount_succ {s t : State} (h : EdgeCase s t) (i : Instr) (k : Nat) :
    commandCount i (k + 1) s = (if decode s.cmd = i then 1 else 0) + commandCount i k t := by
  have hshift : ((fun j => decide (s.commandAt j = i)) ∘ Nat.succ) = fun j => decide (t.commandAt j = i) := by
    funext j
    rw [Function.comp_apply, commandAt_of_edgeCase h]
  simp only [commandCount, List.range_succ_eq_map, List.countP_cons, List.countP_map, hshift, decide_eq_true_iff]
  exact Nat.add_comm _ _

theorem cycles_length (k : Nat) (s : State) : (cycles k s).length = k + 1 := by
  induction k generalizing s with
  | zero => rfl
  | succ k ih =>
    obtain ⟨t, ht, -⟩ := step_total s
    rw [cycles_succ ht, List.length_cons, ih]

/-- What the edges of commands of the kind `P` keep holds in every cycle of a run of such commands. -/
theorem forall_mem_cycles {P : Instr → Prop} {I : State → Prop}
    (hstep : ∀ s t : State, EdgeCase s t → s.rst = false → P (decode s.cmd) → I s → I t) {k : Nat} {s : State}
    (hn : NoReset k s) (hc : ∀ j : Nat, j < k → P (s.commandAt j)) (hs : I s) : ∀ u ∈ cycles k s, I u := by
  induction k generalizing s with
  | zero => simpa using hs
  | succ k ih =>
    obtain ⟨t, ht, h⟩ := step_total s
    obtain ⟨hr, hnt⟩ := noReset_succ hn h
    obtain ⟨hP, hct⟩ := commands_succ hc h
    rw [cycles_succ ht, List.forall_mem_cons]
    exact ⟨hs, ih hnt hct (hstep s t h hr hP hs)⟩

/-- What every edge of a command of the kind `P` establishes holds in every cycle after the first of a run of such commands. -/
theorem forall_mem_cycles_tail {P : Instr → Prop} {I : State → Prop}
    (hstep : ∀ s t : State, EdgeCase s t → s.rst = false → P (decode s.cmd) → I t) {k : Nat} {s : State}
    (hn : NoReset k s) (hc : ∀ j : Nat, j < k → P (s.commandAt j)) : ∀ u ∈ (cycles k s).tail, I u := by
  cases k with
  | zero => simp
  | succ k =>
    obtain ⟨t, ht, h⟩ := step_total s
    obtain ⟨hr, hnt⟩ := noReset_succ hn h
    obtain ⟨hP, hct⟩ := commands_succ hc h
    rw [cycles_succ ht, List.tail_cons]
    exact forall_mem_cycles (fun s t h hr hP _ => hstep s t h hr hP) hnt hct (hstep s t h hr hP)

end Sys2Proof.Machine
end

section
/-! SUPPORT. Runs of STOP and IDLE (R71). -/

namespace Sys2Proof.Machine

theorem phase_of_stop_or_idle_edge {s t : State} (h : EdgeCase s t) (hr : s.rst = false)
    (hc : decode s.cmd = .stop ∨ decode s.cmd = .idle) : t.phase = s.phase := by
  obtain hc | hc := hc
  · rw [h.unique (.stop hr hc)]
    rfl
  · rw [h.unique (.idle hr hc)]
    rfl

theorem low_of_stop_edge {s t : State} (h : EdgeCase s t) (hr : s.rst = false) (hc : decode s.cmd = .stop) (rom : Rom) :
    t.emit = true ∧ t.coil rom = 0b0000#4 := by
  rw [h.unique (.stop hr hc)]
  exact ⟨rfl, emitLow_coil s rom⟩

/-- The cycle after STOP emits LOW once, the cycle after IDLE emits nothing. -/
theorem emission_of_stop_or_idle_edge {s t : State} (h : EdgeCase s t) (hr : s.rst = false)
    (hc : decode s.cmd = .stop ∨ decode s.cmd = .idle) (rom : Rom) :
    (if t.emit = true then [t.coil rom] else []) = List.replicate (if decode s.cmd = .stop then 1 else 0) 0b0000#4 := by
  obtain hc | hc := hc
  · obtain ⟨hemit, hlow⟩ := low_of_stop_edge h hr hc rom
    simp [hc, hemit, hlow]
  · rw [h.unique (.idle hr hc)]
    simp [hc]

/-- R71, by induction on the edges: after the start's own emission, one LOW pattern per STOP. -/
theorem emissionTrace_of_stop_or_idle (rom : Rom) (k : Nat) (s : State) (hn : NoReset k s)
    (hc : ∀ j : Nat, j < k → s.commandAt j = .stop ∨ s.commandAt j = .idle) :
    emissionTrace rom k s =
      (if s.emit = true then [s.coil rom] else []) ++ List.replicate (commandCount .stop k s) 0b0000#4 := by
  induction k generalizing s with
  | zero => rw [emissionTrace_zero, show commandCount .stop 0 s = 0 from rfl, List.replicate_zero, List.append_nil]
  | succ k ih =>
    obtain ⟨t, ht, h⟩ := step_total s
    obtain ⟨hr, hnt⟩ := noReset_succ hn h
    obtain ⟨hfirst, hct⟩ := commands_succ (P := fun i => i = .stop ∨ i = .idle) hc h
    rw [emissionTrace_succ ht, ih t hnt hct, emission_of_stop_or_idle_edge h hr hfirst, List.replicate_append_replicate,
      ← commandCount_succ h]

end Sys2Proof.Machine
end

section
/-! The statements about STOP (41_stop.md). -/

namespace Sys2Proof.Machine

/-- Settles O44: the trace by `emissionTrace_of_stop_or_idle`, the phase and the cycles after STOP by the packaged inductions. -/
theorem stopIsIdempotent : Obligations.StopIsIdempotent := by
  intro rom k s hn
  refine ⟨fun hc => ⟨emissionTrace_of_stop_or_idle rom k s hn hc, ?_⟩, fun hc => ⟨?_, ?_⟩⟩
  · exact forall_mem_cycles (P := fun i => i = .stop ∨ i = .idle) (I := fun u => u.phase = s.phase)
      (fun _ _ h hr hP hs => (phase_of_stop_or_idle_edge h hr hP).trans hs) hn hc rfl
  · rw [List.length_tail, cycles_length, Nat.add_sub_cancel]
  · exact forall_mem_cycles_tail (P := fun i => i = .stop) (fun _ _ h hr hP => low_of_stop_edge h hr hP rom) hn hc

/-- Settles O45: `validStep_after_emitLow` with `delta = 01` and `11`, and `phase_ne_of_exec_energises`. -/
theorem resumeStepsFromTheKeptPhase : Obligations.ResumeStepsFromTheKeptPhase := by
  refine ⟨fun rom s => ?_, fun i s hs => ?_⟩
  · obtain ⟨u, hu, hup, hue, hun⟩ := validStep_after_emitLow (d := 0b01#2) rfl s rom
    obtain ⟨v, hv, hvp, hve, hvn⟩ := validStep_after_emitLow (d := 0b11#2) rfl s rom
    rw [phaseAdd_minusOne] at hvp hve
    exact ⟨s.emitLow, u, v, rfl, hu, hup, hue, hv, hvp, hve, fun hrom => ⟨hun hrom, hvn hrom⟩⟩
  · obtain ⟨t, ht⟩ := exec_total i s
    exact ⟨t, ht, phase_ne_of_exec_energises ht hs⟩

/-- Settles O17: STOP answers `emitLow`, whose lines are LOW whatever the ROM. -/
theorem stopDeEnergisesAndKeepsThePhase : Obligations.StopDeEnergisesAndKeepsThePhase :=
  ⟨fun _ => decode_of_cmdOp, rfl, fun s => ⟨s.emitLow, rfl, rfl, fun rom => ⟨emitLow_events s rom, emitLow_coil s rom⟩⟩⟩

end Sys2Proof.Machine
end

section
/-! SUPPORT. The emission trace (R20) and the error reports (R21) read off the events of a run (D25), and the silent commands. -/

namespace Sys2Proof.Machine

/-- The pattern that an event hands to the sink. -/
def Event.pattern? : Event → Option Pattern
  | .apply p => some p
  | .invalidDirection => none

/-- A cycle reports nothing exactly when both strobes are 0. -/
theorem events_eq_nil_iff (rom : Rom) (s : State) : s.events rom = [] ↔ s.emit = false ∧ s.err = false := by
  simp [State.events]

/-- What a cycle reports is a function of the registers. -/
theorem events_congr {s t : State} (h : t.registers = s.registers) (rom : Rom) : t.events rom = s.events rom := by
  simp only [State.registers, Prod.mk.injEq] at h
  obtain ⟨hp, he, hemit, herr⟩ := h
  rw [State.events, State.events, coil_congr hp he, hemit, herr]

theorem events_filterMap_pattern (rom : Rom) (s : State) :
    (s.events rom).filterMap Event.pattern? = if s.emit then [s.coil rom] else [] := by
  cases he : s.emit <;> cases hr : s.err <;> simp [State.events, Event.pattern?, he, hr]

theorem events_count_invalidDirection (rom : Rom) (s : State) :
    (s.events rom).count .invalidDirection = if s.err then 1 else 0 := by
  cases he : s.emit <;> cases hr : s.err <;> simp [State.events, he, hr]

/-- R20: the emission trace is the patterns of the events, in order. -/
theorem emissionTrace_eq_filterMap_callTrace (rom : Rom) (k : Nat) (s : State) :
    emissionTrace rom k s = (callTrace rom k s).filterMap Event.pattern? := by
  rw [emissionTrace, callTrace]
  induction cycles k s with
  | nil => rfl
  | cons u us ih =>
    rw [List.flatMap_cons, List.filterMap_append, events_filterMap_pattern, ← ih]
    cases he : u.emit <;> simp [he]

/-- R21: the error reports are the failures among the events. -/
theorem errorCount_eq_count_callTrace (rom : Rom) (k : Nat) (s : State) :
    errorCount k s = (callTrace rom k s).count .invalidDirection := by
  rw [errorCount, callTrace]
  induction cycles k s with
  | nil => rfl
  | cons u us ih =>
    rw [List.flatMap_cons, List.count_append, events_count_invalidDirection, ← ih, List.countP_cons, Nat.add_comm]

/-- R76: IDLE reports nothing and keeps the lines, and every other command reports an event. -/
theorem exec_silent_iff_idle {i : Instr} {s t : State} (h : exec i s = .next t) (rom : Rom) :
    (t.events rom = [] ∧ t.phase = s.phase ∧ t.en = s.en) ↔ i = .idle := by
  rw [events_eq_nil_iff]
  obtain ⟨rfl, rfl⟩ | ⟨rfl | rfl, rfl⟩ | ⟨rfl, rfl⟩ | ⟨rfl, rfl⟩ | ⟨rfl, rfl⟩ := exec_cases h
  · exact iff_of_true ⟨⟨rfl, rfl⟩, rfl, rfl⟩ rfl
  -- every other command leaves a strobe at 1
  all_goals simp

end Sys2Proof.Machine
end

section
/-! SUPPORT. Inserting IDLE cycles into a schedule (R76). The next registers depend on `phase` and `en` and the ports, never on the
strobes, so a run forgets an inserted IDLE at the next edge. -/

namespace Sys2Proof.Machine

/-- The second schedule is the first with any number of cycles inserted that have `rst = 0` and an IDLE word. -/
inductive IdlesInserted : List Pins → List Pins → Prop
  | nil : IdlesInserted [] []
  | cons (p : Pins) {ps qs : List Pins} (h : IdlesInserted ps qs) : IdlesInserted (p :: ps) (p :: qs)
  | idle {w : Cmd} (hw : cmdV w = false) {ps qs : List Pins} (h : IdlesInserted ps qs) :
      IdlesInserted ps (⟨false, w⟩ :: qs)

theorem IdlesInserted.refl (ps : List Pins) : IdlesInserted ps ps := by
  induction ps with
  | nil => exact .nil
  | cons p ps ih => exact .cons p ih

theorem IdlesInserted.one {w : Cmd} (hw : cmdV w = false) (before after : List Pins) :
    IdlesInserted (before ++ after) (before ++ ⟨false, w⟩ :: after) := by
  induction before with
  | nil => exact .idle hw (.refl after)
  | cons p before ih => exact .cons p ih

/-- A command does not read the strobes. -/
theorem exec_registers_congr {i : Instr} {s s' u u' : State} (hp : s'.phase = s.phase) (he : s'.en = s.en)
    (h : exec i s = .next u) (h' : exec i s' = .next u') : u'.registers = u.registers := by
  cases s
  cases s'
  cases hp
  cases he
  cases i <;> cases h <;> cases h' <;> rfl

/-- A command neither reads nor writes the schedule. -/
theorem exec_schedule {i : Instr} {s u : State} (h : exec i s = .next u) (ps : List Pins) :
    exec i (s.schedule ps) = .next (u.schedule ps) := by
  cases i <;> cases h <;> rfl

/-- The edge that runs the first word of a schedule leaves the rest of it. -/
theorem step_schedule_of_exec {p : Pins} {s u : State} (hr : p.rst = false) (h : exec (decode p.cmd) s = .next u)
    (ps : List Pins) : step (s.schedule (p :: ps)) = .next (u.tick.schedule ps) :=
  step_of_exec (s := s.schedule (p :: ps)) hr (exec_schedule h (p :: ps))

theorem step_schedule_of_rst {p : Pins} (hr : p.rst = true) (s : State) (ps : List Pins) :
    step (s.schedule (p :: ps)) = .next (s.resetEdge.tick.schedule ps) :=
  step_of_rst (s := s.schedule (p :: ps)) hr

/-- Under the same port values, two states with the same `phase` and `en` have the same next registers. -/
theorem step_schedule_congr {s s' : State} (hp : s'.phase = s.phase) (he : s'.en = s.en) (p : Pins) :
    ∃ t t' : State, t'.registers = t.registers ∧ ∀ ps qs : List Pins,
      step (s.schedule (p :: ps)) = .next (t.schedule ps) ∧ step (s'.schedule (p :: qs)) = .next (t'.schedule qs) := by
  cases hr : p.rst with
  | true =>
    exact ⟨s.resetEdge.tick, s'.resetEdge.tick, rfl, fun ps qs =>
      ⟨step_schedule_of_rst hr s ps, step_schedule_of_rst hr s' qs⟩⟩
  | false =>
    obtain ⟨u, hu⟩ := exec_total (decode p.cmd) s
    obtain ⟨u', hu'⟩ := exec_total (decode p.cmd) s'
    have hreg : u'.registers = u.registers := exec_registers_congr hp he hu hu'
    exact ⟨u.tick, u'.tick, hreg, fun ps qs =>
      ⟨step_schedule_of_exec hr hu ps, step_schedule_of_exec hr hu' qs⟩⟩

/-- Two runs end with the same `phase` and `en` and report the same events after those of their first cycles. The first cycles are
left apart because they need not agree: an IDLE clears the strobes. -/
def RunsAlike (rom : Rom) (k : Nat) (s : State) (k' : Nat) (s' : State) : Prop :=
  ∃ t t' rest, RunsTo k s t ∧ RunsTo k' s' t' ∧ t'.phase = t.phase ∧ t'.en = t.en ∧
    callTrace rom k s = s.events rom ++ rest ∧ callTrace rom k' s' = s'.events rom ++ rest

theorem runsAlike_zero {s s' : State} (hp : s'.phase = s.phase) (he : s'.en = s.en) (rom : Rom) :
    RunsAlike rom 0 s 0 s' :=
  ⟨s, s', [], rfl, rfl, hp, he, by simp [callTrace], by simp [callTrace]⟩

/-- An edge of both runs that reports the same in both. -/
theorem RunsAlike.edge {rom : Rom} {k k' : Nat} {s s' t t' : State} (ht : step s = .next t) (ht' : step s' = .next t')
    (hev : t'.events rom = t.events rom) (h : RunsAlike rom k t k' t') : RunsAlike rom (k + 1) s (k' + 1) s' := by
  obtain ⟨u, u', rest, hu, hu', hp, he, hc, hc'⟩ := h
  refine ⟨u, u', t.events rom ++ rest, (runsTo_succ ht k u).2 hu, (runsTo_succ ht' k' u').2 hu', hp, he, ?_, ?_⟩
  · rw [callTrace_succ ht, hc]
  · rw [callTrace_succ ht', hc', hev]

/-- An edge of the second run alone that reports nothing. -/
theorem RunsAlike.silent_edge {rom : Rom} {k k' : Nat} {s s' t' : State} (ht' : step s' = .next t')
    (hev : t'.events rom = []) (h : RunsAlike rom k s k' t') : RunsAlike rom k s (k' + 1) s' := by
  obtain ⟨u, u', rest, hu, hu', hp, he, hc, hc'⟩ := h
  refine ⟨u, u', rest, hu, (runsTo_succ ht' k' u').2 hu', hp, he, hc, ?_⟩
  rw [callTrace_succ ht', hc', hev, List.nil_append]

/-- R76, by induction on the insertions: a cycle of both schedules is an edge of both runs, an inserted IDLE is a silent one. -/
theorem runsAlike_of_idlesInserted (rom : Rom) {ps qs : List Pins} (h : IdlesInserted ps qs) (s s' : State)
    (hp : s'.phase = s.phase) (he : s'.en = s.en) :
    RunsAlike rom ps.length (s.schedule ps) qs.length (s'.schedule qs) := by
  induction h generalizing s s' with
  | nil => exact runsAlike_zero (s := s.schedule []) (s' := s'.schedule []) hp he rom
  | @cons p ps qs _ ih =>
    obtain ⟨t, t', hreg, hstep⟩ := step_schedule_congr hp he p
    obtain ⟨ht, ht'⟩ := hstep ps qs
    exact (ih t t' (congrArg (·.1) hreg) (congrArg (·.2.1) hreg)).edge ht ht' (events_congr hreg rom)
  | @idle w hw ps qs _ ih =>
    have hexec : exec (decode w) s' = .next s'.strobeNone := by
      rw [decode_of_not_cmdV hw]
      rfl
    exact (ih s s'.strobeNone.tick hp he).silent_edge (step_schedule_of_exec rfl hexec qs) ((events_eq_nil_iff rom _).2 ⟨rfl, rfl⟩)

end Sys2Proof.Machine
end

section
/-! The statements about IDLE (42_idle.md). -/

namespace Sys2Proof.Machine

/-- Settles O46: `exec_silent_iff_idle`, and `runsAlike_of_idlesInserted` with one IDLE inserted and one start. The emission trace
and the error count are read off the events. -/
theorem idleMayBeInsertedAnywhere : Obligations.IdleMayBeInsertedAnywhere := by
  refine ⟨fun rom i s => ?_, fun rom s before after w hw => ?_⟩
  · obtain ⟨t, ht⟩ := exec_total i s
    exact ⟨t, ht, exec_silent_iff_idle ht rom⟩
  · have hlen : (before ++ ⟨false, w⟩ :: after).length = (before ++ after).length + 1 := by
      simp [Nat.add_assoc]
    obtain ⟨t, t', rest, ht, ht', hp, he, hc, hc'⟩ :=
      runsAlike_of_idlesInserted rom (.one hw before after) s s rfl rfl
    rw [hlen] at ht' hc'
    have htrace := hc'.trans hc.symm
    refine ⟨t, t', ht, ht', hp, he, ?_, ?_, htrace⟩
    · rw [emissionTrace_eq_filterMap_callTrace, htrace, emissionTrace_eq_filterMap_callTrace]
    · rw [errorCount_eq_count_callTrace rom, htrace, errorCount_eq_count_callTrace rom]

/-- Settles O12: IDLE answers `strobeNone`, which keeps `phase` and `en`, and the lines are a function of these. -/
theorem idleClearsTheStrobesAndHoldsTheLines : Obligations.IdleClearsTheStrobesAndHoldsTheLines :=
  ⟨fun _ => decode_of_not_cmdV, rfl, fun s => ⟨s.strobeNone, rfl, rfl, coil_congr rfl rfl, fun _ => rfl⟩⟩

end Sys2Proof.Machine
end

section
/-! SUPPORT. The report of InvalidDirection: its event and its cause (R81, R82), which commands raise it (R80), and what it leaves to
the commands after it (R88). -/

namespace Sys2Proof.Machine

/-- A report is the one event of its cycle: the emission strobe is 0. -/
@[simp] theorem raise_events (e : Exn) (s : State) (rom : Rom) : (s.raise e).events rom = [.invalidDirection] := by
  simp [State.events]

theorem cause_of_err {s : State} (h : s.err = true) : s.cause = 1 := if_pos h

theorem cause_of_not_err {s : State} (h : s.err = false) : s.cause = 0 := by
  simp [State.cause, h]

/-- R80: a command leaves `err = 1` exactly when it is an invalid STEP. -/
theorem exec_err_iff {i : Instr} {s t : State} (h : exec i s = .next t) :
    t.err = true ↔ i = .stepInv0 ∨ i = .stepInv2 := by
  obtain ⟨rfl, rfl⟩ | ⟨hi, rfl⟩ | ⟨rfl, rfl⟩ | ⟨rfl, rfl⟩ | ⟨rfl, rfl⟩ := exec_cases h
  · simp
  · exact iff_of_true rfl hi
  -- the three emissions clear `err`
  all_goals simp

/-- An invalid STEP is `step(direction)` of an invalid `delta` (R63, R64), so it raises. -/
theorem exec_of_invalid {i : Instr} (hi : i = .stepInv0 ∨ i = .stepInv2) (s : State) :
    exec i s = .next (s.raise .invalidDirection) := by
  obtain rfl | rfl := hi
  · exact exec_invalidStep (d := 0b00#2) rfl s
  · exact exec_invalidStep (d := 0b10#2) rfl s

/-- An edge with reset or with any other command lets `err` fall. -/
theorem err_of_edge_not_invalid {s t : State} (h : EdgeCase s t)
    (hc : s.rst = true ∨ (decode s.cmd ≠ .stepInv0 ∧ decode s.cmd ≠ .stepInv2)) : t.err = false := by
  cases h with
  | reset | idle | stepCw | stepCcw | stop => rfl
  | stepInv0 hr hi | stepInv2 hr hi => simp [hr, hi] at hc

/-- An edge of an invalid STEP raises, and the next cycle begins. -/
theorem edge_of_invalid {s t : State} (h : EdgeCase s t) (hr : s.rst = false)
    (hc : decode s.cmd = .stepInv0 ∨ decode s.cmd = .stepInv2) : t = (s.raise .invalidDirection).tick := by
  have hstep := step_of_edgeCase h
  rw [step_of_exec hr (exec_of_invalid hc s)] at hstep
  exact (Host.Outcome.next.inj hstep).symm

/-- Every command rewrites both strobes, and a report writes nothing else, so it is not seen by the next command (R88). -/
theorem exec_raise (i : Instr) (e : Exn) (s : State) : exec i (s.raise e) = exec i s := by
  cases e
  cases i <;> rfl

end Sys2Proof.Machine
end

section
/-! The statements about the exception (60_exceptions.md). -/

namespace Sys2Proof.Machine

/-- Settles O31: the strobes are what every edge of an invalid STEP establishes, `phase` and `en` what it keeps; then
`err_of_edge_not_invalid` and `exec_raise`. -/
theorem errorsPulseOncePerInvalidStep : Obligations.ErrorsPulseOncePerInvalidStep := by
  refine ⟨fun k s hn hc => ⟨?_, fun u hu => ?_⟩, fun s hc => ?_, fun i s => ?_⟩
  · rw [List.length_tail, cycles_length, Nat.add_sub_cancel]
  · have hstrobes : u.err = true ∧ u.emit = false :=
      forall_mem_cycles_tail (P := fun i => i = .stepInv0 ∨ i = .stepInv2) (I := fun u => u.err = true ∧ u.emit = false)
        (fun _ _ h hr hP => by simp [edge_of_invalid h hr hP]) hn hc u hu
    have hkept : u.phase = s.phase ∧ u.en = s.en :=
      forall_mem_cycles (P := fun i => i = .stepInv0 ∨ i = .stepInv2) (I := fun u => u.phase = s.phase ∧ u.en = s.en)
        (fun _ _ h hr hP hs => by simpa [edge_of_invalid h hr hP] using hs) hn hc ⟨rfl, rfl⟩ u (List.mem_of_mem_tail hu)
    obtain ⟨herr, hemit⟩ := hstrobes
    exact ⟨herr, hemit, hkept⟩
  · obtain ⟨t, ht, h⟩ := step_total s
    exact ⟨t, ht, err_of_edge_not_invalid h hc⟩
  · obtain ⟨t, ht⟩ := exec_total i s
    exact ⟨t, (exec_raise i .invalidDirection s).trans ht, ht⟩

/-- Settles O29: raising is `strobeErr`, which leaves the lines and reports one event. -/
theorem raiseReportsAndChangesNothingElse : Obligations.RaiseReportsAndChangesNothingElse := fun s =>
  ⟨rfl, fun rom => ⟨raise_coil .invalidDirection s rom, raise_events .invalidDirection s rom⟩,
    cause_of_err (State.raise_err .invalidDirection s), cause_of_not_err, cause_of_err⟩

/-- Settles O30: `exec_err_iff` names the commands, `exec_of_invalid` what they leave. -/
theorem onlyInvalidStepsRaise : Obligations.OnlyInvalidStepsRaise := by
  intro i s
  obtain ⟨t, ht⟩ := exec_total i s
  refine ⟨t, ht, exec_err_iff ht, fun herr => ?_⟩
  have hraise := exec_of_invalid ((exec_err_iff ht).1 herr) s
  rw [ht] at hraise
  exact Host.Outcome.next.inj hraise

end Sys2Proof.Machine
end

section
/-! SUPPORT. Runs of any length, whatever stands on the ports: they exist (R107), and what reset does to them (R96, R97). -/

namespace Sys2Proof.Machine

theorem cycles_eq_cons_tail (k : Nat) (s : State) : cycles k s = s :: (cycles k s).tail := by
  cases k <;> rfl

theorem run_total (k : Nat) (s : State) : ∃ t, RunsTo k s t := by
  induction k generalizing s with
  | zero => exact ⟨s, rfl⟩
  | succ k ih =>
    obtain ⟨t, ht, -⟩ := step_total s
    obtain ⟨u, hu⟩ := ih t
    exact ⟨u, (runsTo_succ ht k u).2 hu⟩

theorem runsTo_unique {k : Nat} {s t u : State} (ht : RunsTo k s t) (hu : RunsTo k s u) : u = t :=
  Host.Outcome.next.inj (hu.symm.trans ht)

/-- A run ends in the last of its cycles. -/
theorem cycles_getLast?_of_runsTo {k : Nat} {s t : State} (h : RunsTo k s t) : (cycles k s).getLast? = some t := by
  induction k generalizing s with
  | zero => exact congrArg some (runsTo_unique (k := 0) h rfl)
  | succ k ih =>
    obtain ⟨u, hu, -⟩ := step_total s
    have hlast : (cycles k u).getLast? = some t := ih ((runsTo_succ hu k t).1 h)
    rw [cycles_succ hu, List.getLast?_cons, hlast, Option.getD_some]

/-- Reset overwrites every register and the edge drops the port values, so nothing is left of the word on `cmd`. -/
theorem step_present_rst (s : State) (w : Cmd) : step (s.present ⟨true, w⟩) = .next s.resetEdge.tick :=
  step_of_rst (s := s.present ⟨true, w⟩) rfl

theorem registers_of_reset_edge {s t : State} (h : EdgeCase s t) (hr : s.rst = true) :
    t.registers = State.reset.registers := by
  rw [h.unique (.reset hr)]
  rfl

/-- The companion of `noReset_succ`, for a run in which `rst` is held at 1. -/
theorem resetHeld_succ {s t : State} {k : Nat} (hr : ∀ j : Nat, j < k + 1 → (s.pinsAt j).rst = true) (h : EdgeCase s t) :
    s.rst = true ∧ ∀ j : Nat, j < k → (t.pinsAt j).rst = true := by
  refine ⟨hr 0 k.succ_pos, fun j hj => ?_⟩
  rw [pinsAt_of_edgeCase h]
  exact hr (j + 1) (Nat.succ_lt_succ hj)

/-- R97, by induction on the edges: each of them resets again. -/
theorem registers_of_resetHeld {k : Nat} {s : State} (hr : ∀ j : Nat, j < k → (s.pinsAt j).rst = true) :
    ∀ u ∈ (cycles k s).tail, u.registers = State.reset.registers := by
  induction k generalizing s with
  | zero => simp
  | succ k ih =>
    obtain ⟨t, ht, h⟩ := step_total s
    obtain ⟨hrs, hrt⟩ := resetHeld_succ hr h
    rw [cycles_succ ht, List.tail_cons, cycles_eq_cons_tail k t, List.forall_mem_cons]
    exact ⟨registers_of_reset_edge h hrs, ih hrt⟩

/-- Without reset, only the two valid STEPs write the phase (R11). -/
theorem rst_or_validStep_of_phase_ne {s t : State} (h : EdgeCase s t) (hne : t.phase ≠ s.phase) :
    s.rst = true ∨ decode s.cmd = .stepCw ∨ decode s.cmd = .stepCcw := by
  cases h with
  | reset hr => exact .inl hr
  | stepCw _ hc => exact .inr (.inl hc)
  | stepCcw _ hc => exact .inr (.inr hc)
  | idle | stepInv0 | stepInv2 | stop => exact absurd rfl hne

/-- The contrapositive of `coil_of_silent_edge`. -/
theorem rst_or_emit_of_coil_ne {s t : State} (h : EdgeCase s t) {rom : Rom} (hne : t.coil rom ≠ s.coil rom) :
    s.rst = true ∨ t.emit = true := by
  by_contra! hquiet
  obtain ⟨hr, he⟩ := hquiet
  exact hne (coil_of_silent_edge h (Bool.eq_false_of_not_eq_true hr) (Bool.eq_false_of_not_eq_true he) rom)

end Sys2Proof.Machine
end

section
/-! The statements about reset and runs of any length (70_reset_and_hazards.md). -/

namespace Sys2Proof.Machine

/-- Settles O33: `step_present_rst` does not mention the word, and `registers_of_resetHeld` names the reset values. -/
theorem resetOverridesTheCommand : Obligations.ResetOverridesTheCommand :=
  ⟨fun s w w' => (step_present_rst s w).trans (step_present_rst s w').symm, fun _ _ hr => registers_of_resetHeld hr⟩

/-- Settles O50: a run is a function of its start, and its cycles lead to its end. -/
theorem everyRunExists : Obligations.EveryRunExists := by
  intro k s
  obtain ⟨t, ht⟩ := run_total k s
  exact ⟨t, ht, fun _ hu => runsTo_unique ht hu, cycles_length k s, cycles_getLast?_of_runsTo ht⟩

/-- Settles O35: the reset edge by `registers_of_reset_edge`, and the only writers of the phase and of the lines. -/
theorem onlyResetChangesTheLinesSilently : Obligations.OnlyResetChangesTheLinesSilently := by
  intro rom s
  obtain ⟨t, ht, h⟩ := step_total s
  refine ⟨t, ht, fun hr => ?_, rst_or_validStep_of_phase_ne h, rst_or_emit_of_coil_ne h⟩
  have hreg := registers_of_reset_edge h hr
  have hlow : t.coil rom = 0b0000#4 := State.coil_of_not_en (congrArg (·.2.1) hreg) rom
  exact ⟨hreg, congrArg (·.1) hreg, hlow, congrArg (·.2.2.1) hreg⟩

end Sys2Proof.Machine
end

section
/-! SUPPORT. One edge: what it leaves of the strobes (R24), that it reads neither of them, and the function `next` of 10_state.md
section 8. -/

namespace Sys2Proof

theorem cmdDelta_bit_zero (w : Cmd) : (cmdDelta w).getLsbD 0 = w.getLsbD 0 := by
  simp [cmdDelta]

end Sys2Proof

namespace Sys2Proof.Machine

theorem strobesExclusive_of_edgeCase {s t : State} (h : EdgeCase s t) : StrobesExclusive t := by
  cases h <;> simp

/-- Every row of the opcode table, and reset, writes both strobes and reads neither. -/
theorem EdgeCase.of_other_strobes {s t : State} (h : EdgeCase s t) (b c : Bool) :
    EdgeCase { s with emit := b, err := c } t := by
  cases h with
  | reset hr => exact .reset hr
  | idle hr hc => exact .idle hr hc
  | stepInv0 hr hc => exact .stepInv0 hr hc
  | stepCw hr hc => exact .stepCw hr hc
  | stepInv2 hr hc => exact .stepInv2 hr hc
  | stepCcw hr hc => exact .stepCcw hr hc
  | stop hr hc => exact .stop hr hc

/-- The bit tests of `next` select the class that `decode` selects. -/
theorem exec_decode_registers (w : Cmd) (s : State) :
    ∃ u, exec (decode w) s = .next u ∧ u.registers = specNext s false w := by
  cases hv : w.getLsbD 3 with
  | false =>
    rw [decode_of_not_cmdV hv, specNext, hv]
    exact ⟨s.strobeNone, rfl, rfl⟩
  | true =>
    cases ho : w.getLsbD 2 with
    | true =>
      rw [decode_of_cmdOp hv ho, specNext, hv, ho]
      exact ⟨s.emitLow, rfl, rfl⟩
    | false =>
      have hvalid : validDirection (cmdDelta w) = w.getLsbD 0 := by
        rw [validDirection_eq_bit_zero, cmdDelta_bit_zero]
      refine ⟨_, exec_decode_step hv ho s, ?_⟩
      cases hd : w.getLsbD 0 with
      | true =>
        rw [stepBy_of_valid (hvalid.trans hd), specNext, hv, ho, hd]
        rfl
      | false =>
        rw [stepBy_of_invalid (hvalid.trans hd), specNext, hv, ho, hd]
        rfl

/-- `exec` leaves the model's own fields to `step` (log 1, 3, 14). -/
theorem exec_frame {i : Instr} {s t : State} (h : exec i s = .next t) :
    t.inputs = s.inputs ∧ t.cycle = s.cycle ∧ t.host = s.host := by
  obtain ⟨-, rfl⟩ | ⟨-, rfl⟩ | ⟨-, rfl⟩ | ⟨-, rfl⟩ | ⟨-, rfl⟩ := exec_cases h <;> exact ⟨rfl, rfl, rfl⟩

/-- R11, R13: what the commands that are no valid STEP leave of `phase` and, but for STOP, of `en`. -/
theorem exec_keeps_of_not_validStep {i : Instr} {s t : State} (h : exec i s = .next t) (hcw : i ≠ .stepCw)
    (hccw : i ≠ .stepCcw) : t.phase = s.phase ∧ (i ≠ .stop → t.en = s.en) := by
  obtain ⟨-, rfl⟩ | ⟨-, rfl⟩ | ⟨hi, -⟩ | ⟨hi, -⟩ | ⟨hi, rfl⟩ := exec_cases h
  · exact ⟨rfl, fun _ => rfl⟩
  · exact ⟨rfl, fun _ => rfl⟩
  · exact absurd hi hcw
  · exact absurd hi hccw
  · exact ⟨rfl, fun hstop => absurd hi hstop⟩

/-- What the outputs show is a function of the registers. -/
theorem outputs_congr {s t : State} (h : t.registers = s.registers) (rom : Rom) : t.outputs rom = s.outputs rom := by
  simp only [State.registers, Prod.mk.injEq] at h
  obtain ⟨hp, he, hemit, herr⟩ := h
  simp [State.outputs, coil_congr hp he rom, hp, hemit, herr]

/-- The outputs of a state whose registers have the reset values. -/
theorem outputs_of_reset_registers {s : State} (h : s.registers = State.reset.registers) (rom : Rom) :
    s.outputs rom = ⟨0b0000#4, false, false, 0#2⟩ ∧ s.events rom = [] :=
  ⟨outputs_congr h rom, events_congr h rom⟩

end Sys2Proof.Machine
end

section
/-! The statements about one edge (10_state.md, 70_reset_and_hazards.md). -/

namespace Sys2Proof.Machine

/-- Settles O53: an edge leaves at most one strobe at 1, whatever it started from. -/
theorem everyStepKeepsStrobesExclusive : Obligations.EveryStepKeepsStrobesExclusive :=
  fun _ _ _ h => strobesExclusive_of_edgeCase (edgeCase_of_step h)

/-- Settles O54, by the reset values of the strobes. -/
theorem strobesExclusiveAtReset : Obligations.StrobesExclusiveAtReset := by
  rintro ⟨hemit, -⟩
  cases hemit

/-- Settles O9, by `pinsAt_of_edgeCase`. -/
theorem portValuesMoveOneCycle : Obligations.PortValuesMoveOneCycle := by
  intro s
  obtain ⟨t, ht, h⟩ := step_total s
  exact ⟨t, ht, pinsAt_of_edgeCase h⟩

/-- Settles O10: reset by `registers_of_reset_edge`, the commands by `exec_decode_registers`. -/
theorem stepIsTheTransitionFunction : Obligations.StepIsTheTransitionFunction := by
  intro s
  cases hr : s.rst with
  | true => exact ⟨_, step_of_rst hr, registers_of_reset_edge (.reset hr) hr⟩
  | false =>
    obtain ⟨u, hu, hreg⟩ := exec_decode_registers s.cmd s
    exact ⟨u.tick, step_of_exec hr hu, hreg⟩

/-- Settles O43, by `EdgeCase.of_other_strobes`. -/
theorem strobesInfluenceNothing : Obligations.StrobesInfluenceNothing := by
  intro s b c
  obtain ⟨t, ht, h⟩ := step_total s
  exact ⟨t, ht, step_of_edgeCase (h.of_other_strobes b c)⟩

/-- Settles O8: the edge ends the cycle of what `exec` left, and `exec` leaves the schedule and the cycle number. -/
theorem stepRunsTheDecodedCommand : Obligations.StepRunsTheDecodedCommand := by
  rintro s i hr rfl
  obtain ⟨t, ht⟩ := exec_total (decode s.cmd) s
  obtain ⟨hinputs, hcycle, -⟩ := exec_frame ht
  refine ⟨t, ht, ?_⟩
  rw [step_of_exec hr ht, State.tick, hinputs, hcycle]

/-- Settles O11, by `exec_frame` and `exec_keeps_of_not_validStep`. -/
theorem commandsLeaveTheRestUnchanged : Obligations.CommandsLeaveTheRestUnchanged := by
  intro i s
  obtain ⟨t, ht⟩ := exec_total i s
  obtain ⟨hinputs, hcycle, hhost⟩ := exec_frame ht
  refine ⟨t, ht, hinputs, hcycle, hhost, fun hcw hccw => ?_, fun hcw hccw => ?_⟩ <;>
    obtain ⟨hphase, hen⟩ := exec_keeps_of_not_validStep ht hcw hccw
  · exact hphase
  · exact hen

/-- Settles O23, by the cases of an edge. -/
theorem strobesTellTheLastCommand : Obligations.StrobesTellTheLastCommand := by
  intro s
  obtain ⟨t, ht, h⟩ := step_total s
  refine ⟨t, ht, ?_⟩
  cases h with
  | reset hr => simp
  | idle hr hc | stepInv0 hr hc | stepCw hr hc | stepInv2 hr hc | stepCcw hr hc | stop hr hc => simp [hr, hc]

/-- Settles O32: the reset edge, and the outputs of the registers it leaves. -/
theorem resetEdgeClearsEveryRegister : Obligations.ResetEdgeClearsEveryRegister := fun _ hr =>
  ⟨_, step_of_rst hr, rfl, outputs_of_reset_registers (registers_of_reset_edge (.reset hr) hr)⟩

/-- Settles O2: the canonical words by `decode_encode`, `0111` and `1111` by their fields. -/
theorem writtenWordsDecode : Obligations.WrittenWordsDecode :=
  ⟨decode_encode .idle, decode_of_not_cmdV rfl, decode_encode .stepInv0, decode_encode .stepCw, decode_encode .stepInv2,
    decode_encode .stepCcw, decode_encode .stop, decode_of_cmdOp rfl rfl⟩

end Sys2Proof.Machine
end

section
/-! SUPPORT. The contents of the ROM: driven words, the flip of one coil, and the tables that V1 to V4 leave (R33 to R37). -/

namespace Sys2Proof

/-- Both coils of the word are driven: R34 for one entry. -/
abbrev Driven (w : Pattern) : Prop := HasPolarity (pairA w) ∧ HasPolarity (pairB w)

theorem driven_iff : ∀ w : Pattern, Driven w ↔
    w = 0b1010#4 ∨ w = 0b1001#4 ∨ w = 0b0110#4 ∨ w = 0b0101#4 := by decide

theorem ne_shorted_of_hasPolarity {p : BitVec 2} (h : HasPolarity p) : p ≠ 0b11#2 := by
  obtain rfl | rfl := h <;> decide

theorem Rom.V1_of_V2 {rom : Rom} (h : rom.V2) : rom.V1 := by
  intro i
  obtain ⟨hA, hB⟩ := h i
  exact ⟨ne_shorted_of_hasPolarity hA, ne_shorted_of_hasPolarity hB⟩

theorem differInOneCoil_symm {w w' : Pattern} (h : DifferInOneCoil w w') : DifferInOneCoil w' w := by
  obtain ⟨hA, hB⟩ | ⟨hA, hB⟩ := h
  · exact .inl ⟨hA.symm, hB.symm⟩
  · exact .inr ⟨hA.symm, hB.symm⟩

/-- Between two driven words, a difference in one coil is that coil's polarity flipped: both its legs. -/
theorem eq_flip_of_differInOneCoil : ∀ w w' : Pattern, Driven w → Driven w' → DifferInOneCoil w w' →
    w' = w ^^^ 0b1100#4 ∨ w' = w ^^^ 0b0011#4 := by decide

/-- Flipping both coils complements a word, in either order. -/
theorem flip_both_coils : ∀ w : Pattern, w ^^^ 0b1100#4 ^^^ 0b0011#4 = ~~~w ∧ w ^^^ 0b0011#4 ^^^ 0b1100#4 = ~~~w := by
  decide

/-- Two steps that do not return to the first word flip each coil once. -/
theorem eq_not_of_two_flips {w w' w'' : Pattern} (hd : Driven w) (hd' : Driven w') (hd'' : Driven w'')
    (h : DifferInOneCoil w w') (h' : DifferInOneCoil w' w'') (hne : w'' ≠ w) : w'' = ~~~w := by
  obtain ⟨hAB, hBA⟩ := flip_both_coils w
  obtain rfl | rfl := eq_flip_of_differInOneCoil w w' hd hd' h <;>
    obtain rfl | rfl := eq_flip_of_differInOneCoil _ w'' hd' hd'' h'
  · simp at hne
  · exact hAB
  · exact hBA
  · simp at hne

/-- A valid table is its first word, a word that differs from it in one coil, and the complements of the two. -/
theorem words_of_romValid {w0 w1 w2 w3 : Pattern} (h : RomValid ⟨w0, w1, w2, w3⟩) :
    Driven w0 ∧ (w1 = w0 ^^^ 0b1100#4 ∨ w1 = w0 ^^^ 0b0011#4) ∧ w2 = ~~~w0 ∧ w3 = ~~~w1 := by
  obtain ⟨-, hV2, hV3, hV4⟩ := h
  exact ⟨hV2 0#2, eq_flip_of_differInOneCoil _ _ (hV2 0#2) (hV2 1#2) (hV3 0#2),
    eq_not_of_two_flips (hV2 0#2) (hV2 1#2) (hV2 2#2) (hV3 0#2) (hV3 1#2) (hV4 2#2 0#2 (by decide)),
    eq_not_of_two_flips (hV2 1#2) (hV2 2#2) (hV2 3#2) (hV3 1#2) (hV3 2#2) (hV4 3#2 1#2 (by decide))⟩

/-- Four driven words to start from and two coils to flip first make the eight tables of R37. -/
theorem mem_admissibleTables_of_romValid {rom : Rom} (h : RomValid rom) : rom ∈ admissibleTables := by
  obtain ⟨w0, w1, w2, w3⟩ := rom
  obtain ⟨hd, h1, rfl, rfl⟩ := words_of_romValid h
  obtain rfl | rfl | rfl | rfl := (driven_iff w0).1 hd <;> obtain rfl | rfl := h1 <;> decide

theorem romValid_of_mem_admissibleTables : ∀ rom ∈ admissibleTables, RomValid rom := by decide

end Sys2Proof

namespace Sys2Proof.Machine

/-- R32: the lines see the ROM at the phase only, and only while `en = 1`. -/
theorem coil_congr_rom {rom rom' : Rom} {s : State} (h : s.en = true → rom.read s.phase = rom'.read s.phase) :
    s.coil rom = s.coil rom' := by
  cases he : s.en with
  | false => rw [State.coil_of_not_en he, State.coil_of_not_en he]
  | true => rw [State.coil_of_en he, State.coil_of_en he, h he]

/-- V3 reads upward; a step counterclockwise takes the same pair of entries downward. -/
theorem differInOneCoil_of_validStep {rom : Rom} (h : rom.V3) {d : Delta} (hd : validDirection d = true) (p : Phase) :
    DifferInOneCoil (rom.read p) (rom.read (phaseAdd p d)) := by
  obtain rfl | rfl | rfl | rfl := delta_cases d
  · cases hd
  · exact h p
  · cases hd
  · rw [phaseAdd_minusOne]
    have hdown := h (p - 1#2)
    rw [BitVec.sub_add_cancel] at hdown
    exact differInOneCoil_symm hdown

end Sys2Proof.Machine
end

section
/-! The statements about the ROM (20_memory.md). -/

namespace Sys2Proof.Machine

/-- Settles O26: `mem_admissibleTables_of_romValid`, and each of the eight tables is valid. -/
theorem validTablesAreTheEightListed : Obligations.ValidTablesAreTheEightListed :=
  ⟨fun rom => ⟨mem_admissibleTables_of_romValid, romValid_of_mem_admissibleTables rom⟩, by decide, rfl⟩

/-- Settles O27: a pair with a polarity is not shorted, and the driven words are four. -/
theorem drivenCoilsAreNotShorted : Obligations.DrivenCoilsAreNotShorted :=
  ⟨fun _ => Rom.V1_of_V2, driven_iff⟩

/-- Settles O25: of the four ports only the lines see the ROM. -/
theorem outputsSeeTheRomAtThePhaseOnly : Obligations.OutputsSeeTheRomAtThePhaseOnly := by
  intro rom rom' s h
  rw [State.outputs, coil_congr_rom h, State.outputs]

end Sys2Proof.Machine
end

section
/-! SUPPORT. Valid STEPs: the edge that runs one, a step and its reversal, and runs that count their steps (R65, R66). -/

namespace Sys2Proof.Machine

/-- The companion of `edge_of_invalid`. -/
theorem edge_of_validStep {d : Delta} (hd : validDirection d = true) {s t : State} (h : EdgeCase s t) (hr : s.rst = false)
    (hc : decode s.cmd = decodeStep d) : t = (s.emitTable (phaseAdd s.phase d)).tick := by
  have hstep := step_of_edgeCase h
  rw [step_of_exec hr (hc ▸ exec_validStep hd s)] at hstep
  exact (Host.Outcome.next.inj hstep).symm

/-- The two valid STEPs are `step` of a valid `delta`. -/
theorem eq_decodeStep_of_validStep {i : Instr} (hi : i = .stepCw ∨ i = .stepCcw) :
    ∃ d : Delta, validDirection d = true ∧ i = decodeStep d ∧
      ∀ p : Phase, phaseAdd p d = p + 1#2 ∨ phaseAdd p d = p - 1#2 := by
  obtain rfl | rfl := hi
  · exact ⟨0b01#2, rfl, rfl, fun _ => .inl rfl⟩
  · exact ⟨0b11#2, rfl, rfl, fun p => .inr (phaseAdd_minusOne p)⟩

/-- A step and the one with the opposite `delta`: each reports its entry, and the phase is back (R65 item 2). -/
theorem exec_step_and_back {d d' : Delta} (hd : validDirection d = true) (hd' : validDirection d' = true)
    (hback : d + d' = 0#2) (rom : Rom) (s : State) :
    ∃ t u, exec (decodeStep d) s = .next t ∧ exec (decodeStep d') t = .next u ∧ u.phase = s.phase ∧
      t.events rom = [.apply (rom.read (phaseAdd s.phase d))] ∧ u.events rom = [.apply (rom.read s.phase)] := by
  have hphase : phaseAdd (phaseAdd s.phase d) d' = s.phase := by
    rw [phaseAdd, phaseAdd, BitVec.add_assoc, hback, BitVec.add_zero]
  refine ⟨_, _, exec_validStep hd s, exec_validStep hd' _, hphase, emitTable_events _ _ rom, ?_⟩
  rw [emitTable_events, State.emitTable_phase, hphase]

/-- The phases of a run of steps with one `delta`: each is the adder's sum of the one before. -/
theorem phases_of_steps {d : Delta} (hd : validDirection d = true) {k : Nat} {s : State} (hn : NoReset k s)
    (hc : ∀ j : Nat, j < k → s.commandAt j = decodeStep d) :
    (cycles k s).map State.phase = List.iterate (phaseAdd · d) s.phase (k + 1) := by
  induction k generalizing s with
  | zero => rfl
  | succ k ih =>
    obtain ⟨t, ht, h⟩ := step_total s
    obtain ⟨hr, hnt⟩ := noReset_succ hn h
    obtain ⟨hfirst, hct⟩ := commands_succ (P := (· = decodeStep d)) hc h
    rw [cycles_succ ht, List.map_cons, ih hnt hct, edge_of_validStep hd h hr hfirst]
    rfl

/-- Four steps in one direction, written out. -/
theorem iterate_phaseAdd_four : ∀ p : Phase,
    List.iterate (phaseAdd · 0b01#2) p 5 = [p, p + 1#2, p + 2#2, p + 3#2, p] ∧
    List.iterate (phaseAdd · 0b11#2) p 5 = [p, p - 1#2, p - 2#2, p - 3#2, p] := by decide

/-- The phase after one edge without reset, counted in valid STEPs. -/
theorem phase_of_edge {s t : State} (h : EdgeCase s t) (hr : s.rst = false) :
    (t.phase.toNat : Int) = ((s.phase.toNat : Int) + (if decode s.cmd = .stepCw then 1 else 0 : Nat) -
      (if decode s.cmd = .stepCcw then 1 else 0 : Nat)) % 4 := by
  have hkept : (s.phase.toNat : Int) = (s.phase.toNat : Int) % 4 :=
    (Int.emod_eq_of_lt (Int.natCast_nonneg _) (Int.ofNat_lt.2 s.phase.isLt)).symm
  cases h with
  | reset hr' => simp [hr] at hr'
  | idle _ hc | stepInv0 _ hc | stepInv2 _ hc | stop _ hc => simpa [hc] using hkept
  | stepCw _ hc => simp [hc, BitVec.toNat_add]
  | stepCcw _ hc => simpa [hc, phaseAdd] using phaseAdd_minusOne_toNat s.phase

/-- R65 item 4, by induction on the edges. -/
theorem phase_of_run {k : Nat} {s t : State} (hn : NoReset k s) (ht : RunsTo k s t) :
    (t.phase.toNat : Int) = ((s.phase.toNat : Int) + commandCount .stepCw k s - commandCount .stepCcw k s) % 4 := by
  induction k generalizing s with
  | zero =>
    have hp : s.phase.toNat < 4 := s.phase.isLt
    rw [runsTo_unique (k := 0) rfl ht, show commandCount .stepCw 0 s = 0 from rfl, show commandCount .stepCcw 0 s = 0 from rfl]
    omega
  | succ k ih =>
    obtain ⟨u, hu, h⟩ := step_total s
    obtain ⟨hr, hnu⟩ := noReset_succ hn h
    have hfirst := phase_of_edge h hr
    have hrest := ih hnu ((runsTo_succ hu k t).1 ht)
    rw [commandCount_succ h, commandCount_succ h]
    omega

/-- The host's mapping of +1 and -1: the one step, and the integer is the addend (R48, R55). -/
theorem exec_stepInstr_of_direction {d : Int} (hd : d = 1 ∨ d = -1) (s : State) : ∃ p : Phase,
    exec (stepInstr d) s = .next (s.emitTable p) ∧ (p.toNat : Int) = ((s.phase.toNat : Int) + d) % 4 := by
  obtain rfl | rfl := hd
  · exact ⟨_, exec_validStep (d := 0b01#2) rfl s, congrArg Int.ofNat (phaseAdd_toNat s.phase 0b01#2)⟩
  · exact ⟨_, exec_validStep (d := 0b11#2) rfl s, phaseAdd_minusOne_toNat s.phase⟩

end Sys2Proof.Machine
end

section
/-! SUPPORT. With V3, the emissions of a run without STOP and reset walk the table one coil at a time (95_test_vectors.md
section 6). -/

namespace Sys2Proof.Machine

/-- An edge that is neither reset nor STOP shows a neighbour of the entry at the old phase, or emits nothing and keeps the phase. -/
theorem emission_of_edge_without_stop {rom : Rom} (hV3 : rom.V3) {s t : State} (h : EdgeCase s t) (hr : s.rst = false)
    (hc : decode s.cmd ≠ .stop) :
    (t.emit = true ∧ t.coil rom = rom.read t.phase ∧ DifferInOneCoil (rom.read s.phase) (rom.read t.phase)) ∨
      (t.emit = false ∧ t.phase = s.phase) := by
  cases h with
  | reset hr' => simp [hr] at hr'
  | idle | stepInv0 | stepInv2 => exact .inr ⟨rfl, rfl⟩
  | stepCw => exact .inl ⟨rfl, State.coil_of_en rfl rom, differInOneCoil_of_validStep hV3 (d := 0b01#2) rfl s.phase⟩
  | stepCcw => exact .inl ⟨rfl, State.coil_of_en rfl rom, differInOneCoil_of_validStep hV3 (d := 0b11#2) rfl s.phase⟩
  | stop _ hc' => exact absurd hc' hc

/-- The emissions after the start's own, put after the entry at the start's phase, differ in one coil from neighbour to neighbour. -/
theorem emissionTrace_chain {rom : Rom} (hV3 : rom.V3) {k : Nat} {s : State} (hn : NoReset k s)
    (hc : ∀ j : Nat, j < k → s.commandAt j ≠ .stop) :
    ∃ rest, emissionTrace rom k s = (if s.emit then [s.coil rom] else []) ++ rest ∧
      List.IsChain DifferInOneCoil (rom.read s.phase :: rest) := by
  induction k generalizing s with
  | zero => exact ⟨[], by rw [emissionTrace_zero, List.append_nil], .singleton _⟩
  | succ k ih =>
    obtain ⟨t, ht, h⟩ := step_total s
    obtain ⟨hr, hnt⟩ := noReset_succ hn h
    obtain ⟨hfirst, hct⟩ := commands_succ (P := (· ≠ .stop)) hc h
    obtain ⟨rest, htrace, hchain⟩ := ih hnt hct
    refine ⟨_, emissionTrace_succ ht rom k, ?_⟩
    rw [htrace]
    obtain ⟨hemit, hcoil, hflip⟩ | ⟨hemit, hphase⟩ := emission_of_edge_without_stop hV3 h hr hfirst
    · rw [if_pos hemit, hcoil]
      exact .cons_cons hflip hchain
    · simpa [hemit, hphase] using hchain

end Sys2Proof.Machine
end

section
/-! The statements about runs of STEPs (40_step.md section 5, 95_test_vectors.md section 6). -/

namespace Sys2Proof.Machine

/-- Settles O37: `phases_of_steps` with `delta = 01` and `11`. -/
theorem fourStepsCloseTheCycle : Obligations.FourStepsCloseTheCycle := by
  intro s hn
  obtain ⟨hcw, hccw⟩ := iterate_phaseAdd_four s.phase
  exact ⟨fun hc => (phases_of_steps (d := 0b01#2) rfl hn hc).trans hcw,
    fun hc => (phases_of_steps (d := 0b11#2) rfl hn hc).trans hccw⟩

/-- Settles O38: `exec_step_and_back` in both orders. -/
theorem reversalReturnsToThePhase : Obligations.ReversalReturnsToThePhase := by
  refine fun rom s => ⟨exec_step_and_back (d := 0b01#2) (d' := 0b11#2) rfl rfl rfl rom s, ?_⟩
  rw [← phaseAdd_minusOne]
  exact exec_step_and_back (d := 0b11#2) (d' := 0b01#2) rfl rfl rfl rom s

/-- Settles O39: the phase by the adder, the coil by V3. -/
theorem eachStepFlipsExactlyOneCoil : Obligations.EachStepFlipsExactlyOneCoil := by
  rintro rom s i ⟨-, -, hV3, -⟩ hi
  obtain ⟨d, hd, rfl, hphase⟩ := eq_decodeStep_of_validStep hi
  refine ⟨_, exec_validStep hd s, hphase s.phase, ?_⟩
  rw [emitTable_coil]
  exact differInOneCoil_of_validStep hV3 hd s.phase

/-- Settles O40, by `phase_of_run`: `2c - n` is the steps clockwise less those counterclockwise. -/
theorem phaseCountsTheSteps : Obligations.PhaseCountsTheSteps := by
  intro k s hn
  obtain ⟨t, ht⟩ := run_total k s
  refine ⟨t, ht, fun n c hc hnc => ?_⟩
  have hphase := phase_of_run hn ht
  omega

/-- Settles O41, by `emissionTrace_chain`: a start that reports an emission shows the entry at its phase. -/
theorem consecutiveEmissionsFlipOneCoil : Obligations.ConsecutiveEmissionsFlipOneCoil := by
  rintro rom k s ⟨-, -, hV3, -⟩ hn hc hen xs ys p q htrace
  obtain ⟨rest, hrest, hchain⟩ := emissionTrace_chain hV3 hn hc
  have hall : List.IsChain DifferInOneCoil (emissionTrace rom k s) := by
    cases hemit : s.emit with
    | true => simpa [hrest, hemit, State.coil_of_en (hen hemit)] using hchain
    | false => simpa [hrest, hemit] using hchain.tail
  rw [htrace] at hall
  obtain ⟨-, hpq, -⟩ := List.isChain_append_cons_cons.1 hall
  exact hpq

/-- Settles O42: a valid STEP writes all four registers, and what it writes is a function of the phase. -/
theorem stepDependsOnThePhaseOnly : Obligations.StepDependsOnThePhaseOnly := by
  intro i s s' hi hp
  obtain ⟨d, hd, rfl, -⟩ := eq_decodeStep_of_validStep hi
  refine ⟨_, _, exec_validStep hd s, exec_validStep hd s', ?_⟩
  rw [hp]
  rfl

/-- Settles O49: +1 and -1 by `exec_stepInstr_of_direction`, the others by `exec_of_invalid`. -/
theorem anyIntegerStepsOrIsRejected : Obligations.AnyIntegerStepsOrIsRejected := by
  intro d s
  by_cases hd : d = 1 ∨ d = -1
  · obtain ⟨p, hexec, hp⟩ := exec_stepInstr_of_direction hd s
    exact ⟨_, hexec, fun _ => ⟨rfl, rfl, rfl, hp⟩, fun h₁ h₂ => (hd.elim h₁ h₂).elim⟩
  · obtain ⟨h₁, h₂⟩ := not_or.1 hd
    exact ⟨_, exec_of_invalid (stepInstr_of_not_direction h₁ h₂) s, fun h => (hd h).elim, fun _ _ => rfl⟩

end Sys2Proof.Machine
end

section
/-! SUPPORT. What a run shows depends on the registers and the ports of its cycles (D25), and the ghost flag of a run (R83). -/

namespace Sys2Proof.Machine

theorem observation_succ {s t : State} (h : step s = .next t) (rom : Rom) (k : Nat) :
    observation rom (k + 1) s = s.outputs rom :: observation rom k t := by
  simp [observation, cycles_succ h]

/-- Under the same port values in the current cycle, two states with the same `phase` and `en` have the same next registers. -/
theorem step_registers_congr {s s' t t' : State} (hp : s'.phase = s.phase) (he : s'.en = s.en)
    (hpins : s'.pinsAt 0 = s.pinsAt 0) (ht : step s = .next t) (ht' : step s' = .next t') : t'.registers = t.registers := by
  have hrst : s'.rst = s.rst := congrArg Pins.rst hpins
  have hcmd : s'.cmd = s.cmd := congrArg Pins.cmd hpins
  obtain ⟨hr, rfl⟩ | ⟨hr, u, hu, rfl⟩ := step_cases ht
  · exact registers_of_reset_edge (edgeCase_of_step ht') (hrst.trans hr)
  · obtain ⟨hr', rfl⟩ | ⟨hr', u', hu', rfl⟩ := step_cases ht'
    · simp [hrst, hr] at hr'
    · rw [hcmd] at hu'
      have hreg : u'.registers = u.registers := exec_registers_congr hp he hu hu'
      exact hreg

/-- D25, by induction on the edges. -/
theorem observation_congr (rom : Rom) {k : Nat} {s s' : State} (hreg : s.registers = s'.registers)
    (hpins : ∀ j : Nat, j < k → s.pinsAt j = s'.pinsAt j) : observation rom k s = observation rom k s' := by
  induction k generalizing s s' with
  | zero => exact congrArg (fun o => [o]) (outputs_congr hreg rom)
  | succ k ih =>
    obtain ⟨t, ht, h⟩ := step_total s
    obtain ⟨t', ht', h'⟩ := step_total s'
    have hnext : t.registers = t'.registers :=
      step_registers_congr (congrArg (·.1) hreg) (congrArg (·.2.1) hreg) (hpins 0 k.succ_pos) ht' ht
    have hlater : ∀ j : Nat, j < k → t.pinsAt j = t'.pinsAt j := fun j hj => by
      rw [pinsAt_of_edgeCase h, pinsAt_of_edgeCase h', hpins (j + 1) (Nat.succ_lt_succ hj)]
    rw [observation_succ ht, observation_succ ht', outputs_congr hreg, ih hnext hlater]

/-- The edge `j` cycles from now samples an invalid STEP. -/
def State.InvalidStepAt (s : State) (j : Nat) : Prop :=
  (s.pinsAt j).rst = false ∧ (s.commandAt j = .stepInv0 ∨ s.commandAt j = .stepInv2)

theorem invalidStepAt_of_edgeCase {s t : State} (h : EdgeCase s t) (j : Nat) :
    t.InvalidStepAt j ↔ s.InvalidStepAt (j + 1) := by
  rw [State.InvalidStepAt, pinsAt_of_edgeCase h, commandAt_of_edgeCase h, State.InvalidStepAt]

/-- R15, as a fact about the current cycle. -/
theorem err_iff_invalidStepAt {s t : State} (h : EdgeCase s t) : t.err = true ↔ s.InvalidStepAt 0 := by
  obtain ⟨u, hu, herr, -⟩ := errReportsExactlyTheInvalidSteps s
  rw [h.unique (edgeCase_of_step hu)]
  exact herr

theorem errEver_succ {s t : State} (h : step s = .next t) (k : Nat) : errEver (k + 1) s = (s.err || errEver k t) := by
  simp [errEver, cycles_succ h]

/-- R83, by induction on the edges. -/
theorem errEver_iff (k : Nat) (s : State) :
    errEver k s = true ↔ s.err = true ∨ ∃ j : Nat, j < k ∧ s.InvalidStepAt j := by
  induction k generalizing s with
  | zero => simp [errEver]
  | succ k ih =>
    obtain ⟨t, ht, h⟩ := step_total s
    simp only [errEver_succ ht, Bool.or_eq_true, ih t, err_iff_invalidStepAt h, invalidStepAt_of_edgeCase h]
    rw [Nat.exists_lt_succ_left]

theorem errEver_eq_false_iff (k : Nat) (s : State) : errEver k s = false ↔ errorCount k s = 0 := by
  rw [errEver, errorCount, List.any_eq_false, List.countP_eq_zero]

end Sys2Proof.Machine
end

section
/-! The statements about what is observed of a run (10_state.md section 8, 60_exceptions.md). -/

namespace Sys2Proof.Machine

/-- Settles O51, by `observation_congr`. -/
theorem observationDependsOnRegistersAndPorts : Obligations.ObservationDependsOnRegistersAndPorts :=
  fun rom _ _ _ hreg hpins => observation_congr rom hreg hpins

/-- Settles O52, by `errEver_iff` and `errEver_eq_false_iff`. -/
theorem ghostFlagRecordsInvalidSteps : Obligations.GhostFlagRecordsInvalidSteps :=
  fun k s => ⟨errEver_iff k s, errEver_eq_false_iff k s⟩

end Sys2Proof.Machine
end

section
/-! SUPPORT. A bank of blocks: an edge of one block, and any interleaving of the blocks' edges (R91; log 12, 14). -/

namespace Sys2Proof.Machine

/-- No edge rewires a block. -/
theorem host_of_edgeCase {s t : State} (h : EdgeCase s t) : t.host = s.host := by
  cases h <;> rfl

theorem drivenBy_of_host {i : Nat} {s : State} (h : s.host = i) : s.drivenBy i = s := by
  rw [← h, drivenBy_host]

/-- The outputs of a block do not show which host drives it. -/
theorem outputs_drivenBy (i : Nat) (s : State) (rom : Rom) : (s.drivenBy i).outputs rom = s.outputs rom := rfl

/-- A bank after a write at `i`, read at the block written and at every other. -/
theorem getElem?_set_block {bank : List State} {i : Nat} {s : State} (hs : bank[i]? = some s) (t : State) :
    (bank.set i t)[i]? = some t ∧ ∀ j : Nat, j ≠ i → (bank.set i t)[j]? = bank[j]? := by
  obtain ⟨hi, -⟩ := List.getElem?_eq_some_iff.1 hs
  exact ⟨List.getElem?_set_self hi, fun j hj => List.getElem?_set_ne hj.symm⟩

/-- An edge of a block of the bank exists, is the block's own edge, and leaves the block with the host that drove it. -/
theorem stepInstance_total {i : Nat} {bank : List State} {s : State} (hs : bank[i]? = some s) :
    ∃ t, step (s.drivenBy i) = .next t ∧ stepInstance i bank = some (bank.set i t) ∧ t.host = i := by
  obtain ⟨t, ht, h⟩ := step_total (s.drivenBy i)
  exact ⟨t, ht, stepInstance_of_step hs ht, host_of_edgeCase h⟩

theorem stepInstances_cons {i : Nat} {bank bank' : List State} (h : stepInstance i bank = some bank') (edges : List Nat) :
    stepInstances (i :: edges) bank = stepInstances edges bank' := by
  simp [stepInstances, h]

/-- Each block of the first bank ends, in the second, where as many edges as its own clock had take it alone. -/
def RanAlone (edges : List Nat) (bank bank' : List State) : Prop :=
  ∀ (i : Nat) (s : State), bank[i]? = some s →
    ∃ t, RunsTo (edges.count i) (s.drivenBy i) t ∧ (bank'[i]?).map (State.drivenBy i) = some t

theorem ranAlone_nil (bank : List State) : RanAlone [] bank bank := fun i s hs =>
  ⟨s.drivenBy i, rfl, by rw [hs, Option.map_some]⟩

/-- One more edge before the others: the block it belongs to runs one edge longer, and every other as long as before. -/
theorem RanAlone.cons {edges : List Nat} {bank bank' : List State} {i : Nat} {s t : State} (hs : bank[i]? = some s)
    (ht : step (s.drivenBy i) = .next t) (hhost : t.host = i) (h : RanAlone edges (bank.set i t) bank') :
    RanAlone (i :: edges) bank bank' := by
  obtain ⟨hself, hother⟩ := getElem?_set_block hs t
  intro j r hr
  by_cases hj : j = i
  · subst hj
    obtain ⟨u, hu, hend⟩ := h j t hself
    rw [drivenBy_of_host hhost] at hu
    rw [hs, Option.some_inj] at hr
    rw [← hr, List.count_cons_self]
    exact ⟨u, (runsTo_succ ht _ u).2 hu, hend⟩
  · rw [List.count_cons_of_ne (Ne.symm hj)]
    exact h j r ((hother j hj).trans hr)

/-- R91, by induction on the edges. -/
theorem stepInstances_ranAlone {edges : List Nat} {bank : List State} (hedges : ∀ i ∈ edges, i < bank.length) :
    ∃ bank', stepInstances edges bank = some bank' ∧ bank'.length = bank.length ∧ RanAlone edges bank bank' := by
  induction edges generalizing bank with
  | nil => exact ⟨bank, rfl, rfl, ranAlone_nil bank⟩
  | cons i edges ih =>
    obtain ⟨hi, hrest⟩ := List.forall_mem_cons.1 hedges
    have hs : bank[i]? = some bank[i] := List.getElem?_eq_getElem hi
    obtain ⟨t, ht, hstep, hhost⟩ := stepInstance_total hs
    obtain ⟨bank', hrun, hlen, halone⟩ := ih (bank := bank.set i t) (by simpa using hrest)
    exact ⟨bank', (stepInstances_cons hstep edges).trans hrun, hlen.trans List.length_set, halone.cons hs ht hhost⟩

/-- The outputs of a block of a bank are those of the block driven by its own host. -/
theorem instanceOutputs_of_drivenBy {i : Nat} {bank : List State} {t : State}
    (h : (bank[i]?).map (State.drivenBy i) = some t) (roms : Nat → Rom) :
    instanceOutputs roms i bank = some (t.outputs (roms i)) := by
  obtain ⟨u, hu, rfl⟩ := Option.map_eq_some_iff.1 h
  rw [instanceOutputs, hu, Option.map_some, outputs_drivenBy]

theorem ownHosts_of_stepInstance {i : Nat} {bank bank' : List State} (hown : OwnHosts bank)
    (h : stepInstance i bank = some bank') : OwnHosts bank' := by
  obtain ⟨s, t, hs, ht, rfl⟩ := stepInstance_cases h
  obtain ⟨hself, hother⟩ := getElem?_set_block hs t
  intro j r hr
  by_cases hj : j = i
  · subst hj
    rw [hself, Option.some_inj] at hr
    rw [← hr]
    exact host_of_edgeCase (edgeCase_of_step ht)
  · exact hown j r ((hother j hj).symm.trans hr)

theorem bankReset_length (n : Nat) : (bankReset n).length = n := by
  simp [bankReset]

theorem ownHosts_bankReset (n : Nat) : OwnHosts (bankReset n) := by
  intro i s hs
  rw [bankReset, List.getElem?_map, Option.map_eq_some_iff] at hs
  obtain ⟨j, hj, rfl⟩ := hs
  obtain ⟨hi, rfl⟩ := List.getElem?_eq_some_iff.1 hj
  exact List.getElem_range hi

end Sys2Proof.Machine
end

section
/-! The statements about several blocks (60_exceptions.md section 6). -/

namespace Sys2Proof.Machine

/-- Settles O58, by `stepInstance_total` and `getElem?_set_block`. -/
theorem instancesDoNotInteract : Obligations.InstancesDoNotInteract := by
  intro bank i s hs
  obtain ⟨t, ht, hstep, -⟩ := stepInstance_total hs
  obtain ⟨hself, hother⟩ := getElem?_set_block hs t
  refine ⟨t, bank.set i t, ht, hstep, hself, fun hhost => ?_, hother⟩
  rwa [drivenBy_of_host hhost] at ht

/-- Settles O59: `stepInstances_ranAlone`, and the outputs by `instanceOutputs_of_drivenBy`. -/
theorem interleavedInstancesRunAsIfAlone : Obligations.InterleavedInstancesRunAsIfAlone := by
  intro edges bank hedges
  obtain ⟨bank', hrun, hlen, halone⟩ := stepInstances_ranAlone hedges
  refine ⟨bank', hrun, hlen, fun i s hs => ?_⟩
  obtain ⟨t, ht, hend⟩ := halone i s hs
  exact ⟨t, ht, hend, instanceOutputs_of_drivenBy hend⟩

/-- Settles O60: an edge keeps the host that drove it, and the blocks of `bankReset` are wired one by one. -/
theorem everyInstanceKeepsItsOwnHost : Obligations.EveryInstanceKeepsItsOwnHost :=
  ⟨fun _ _ _ => ownHosts_of_stepInstance, fun n => ⟨bankReset_length n, ownHosts_bankReset n⟩⟩

end Sys2Proof.Machine
end

section
/-! SUPPORT. Programs, lists of commands in consecutive cycles without reset (R16, R53): what they do to the registers and what they
report, composed command by command, and the run of their lines. -/

namespace Sys2Proof.Machine

/-- The commands take the first state to the second and report the events after whatever the first state itself reports. -/
inductive Executes (rom : Rom) : State → List Instr → List Event → State → Prop
  | nil (s : State) : Executes rom s [] [] s
  | cons {i : Instr} {is : List Instr} {evs : List Event} {s u t : State} (h : exec i s = .next u)
      (hrest : Executes rom u.tick is evs t) : Executes rom s (i :: is) (u.events rom ++ evs) t

theorem Executes.append {rom : Rom} {s t u : State} {is js : List Instr} {evs evs' : List Event}
    (h : Executes rom s is evs t) (h' : Executes rom t js evs' u) : Executes rom s (is ++ js) (evs ++ evs') u := by
  induction h with
  | nil => exact h'
  | cons hexec _ ih =>
    rw [List.cons_append, List.append_assoc]
    exact .cons hexec (ih h')

theorem Executes.snoc {rom : Rom} {s t u : State} {is : List Instr} {i : Instr} {evs : List Event}
    (h : Executes rom s is evs t) (hexec : exec i t = .next u) :
    Executes rom s (is ++ [i]) (evs ++ (u.events rom ++ [])) u.tick :=
  h.append (.cons hexec (.nil _))

/-- The edge that runs the first line of a program leaves the rest of it. -/
theorem step_line {i : Instr} {s u : State} (h : exec i s = .next u) (ps : List Pins) :
    step (s.schedule (i.line :: ps)) = .next (u.tick.schedule ps) :=
  step_schedule_of_exec rfl (by rwa [Instr.line, decode_encode]) ps

/-- A program's lines are run in as many edges, and the schedule after them is left (log 1). -/
theorem Executes.runsTo {rom : Rom} {s t : State} {is : List Instr} {evs : List Event} (h : Executes rom s is evs t)
    (after : List Pins) : RunsTo is.length (s.schedule (is.map Instr.line ++ after)) (t.schedule after) := by
  induction h with
  | nil => rfl
  | cons hexec _ ih => exact (runsTo_succ (step_line hexec _) _ _).2 ih

theorem Executes.callTrace_eq {rom : Rom} {s t : State} {is : List Instr} {evs : List Event} (h : Executes rom s is evs t)
    (after : List Pins) :
    callTrace rom is.length (s.schedule (is.map Instr.line ++ after)) = s.events rom ++ evs := by
  induction h with
  | nil s => simp [callTrace]
  | cons hexec _ ih =>
    rw [List.map_cons, List.cons_append, List.length_cons, callTrace_succ (step_line hexec _), ih]
    rfl

/-- The emissions of a program's run: that of the start, then the patterns among the events. -/
theorem Executes.emissionTrace_eq {rom : Rom} {s t : State} {is : List Instr} {evs : List Event}
    (h : Executes rom s is evs t) (after : List Pins) :
    emissionTrace rom is.length (s.schedule (is.map Instr.line ++ after)) =
      (if s.emit then [s.coil rom] else []) ++ evs.filterMap Event.pattern? := by
  rw [emissionTrace_eq_filterMap_callTrace, h.callTrace_eq, List.filterMap_append, events_filterMap_pattern]

/-- The ports during a program's lines. -/
theorem pinsAt_lines (s : State) (is : List Instr) (after : List Pins) {j : Nat} (hj : j < is.length) :
    (s.schedule (is.map Instr.line ++ after)).pinsAt j = is[j].line := by
  refine pinsAt_of_schedule ?_
  rw [State.schedule_inputs, List.getElem?_append_left (by simpa using hj), List.getElem?_map, List.getElem?_eq_getElem hj,
    Option.map_some]

theorem noReset_lines (s : State) (is : List Instr) (after : List Pins) :
    NoReset is.length (s.schedule (is.map Instr.line ++ after)) := fun j hj => by
  rw [pinsAt_lines s is after hj]
  rfl

theorem commandAt_lines {P : Instr → Prop} {is : List Instr} (h : ∀ i ∈ is, P i) (s : State) (after : List Pins) :
    ∀ j : Nat, j < is.length → P ((s.schedule (is.map Instr.line ++ after)).commandAt j) := fun j hj => by
  rw [State.commandAt, pinsAt_lines s is after hj, Instr.line, decode_encode]
  exact h _ (List.getElem_mem hj)

/-- What the edges of commands of the kind `P` keep holds in every cycle of a program of such commands. -/
theorem forall_mem_cycles_lines {P : Instr → Prop} {I : State → Prop}
    (hstep : ∀ s t : State, EdgeCase s t → s.rst = false → P (decode s.cmd) → I s → I t) {is : List Instr}
    (hP : ∀ i ∈ is, P i) {s : State} {after : List Pins} (hs : I (s.schedule (is.map Instr.line ++ after))) :
    ∀ u ∈ cycles is.length (s.schedule (is.map Instr.line ++ after)), I u :=
  forall_mem_cycles hstep (noReset_lines s is after) (commandAt_lines hP s after) hs

end Sys2Proof.Machine
end

section
/-! SUPPORT. The programs of R55 and R100: waiting, whatever does not step, and steps with waits after them. -/

namespace Sys2Proof.Machine

/-- `WAIT n` reports nothing and keeps `phase` and `en` (R75). -/
theorem executes_wait (rom : Rom) (n : Nat) (s : State) :
    ∃ t, Executes rom s (List.replicate n .idle) [] t ∧ t.phase = s.phase ∧ t.en = s.en := by
  induction n generalizing s with
  | zero => exact ⟨s, .nil s, rfl, rfl⟩
  | succ n ih =>
    obtain ⟨t, ht, hp, he⟩ := ih s.strobeNone.tick
    exact ⟨t, .cons (u := s.strobeNone) rfl ht, hp, he⟩

theorem coil_of_idle_edge {s t : State} (h : EdgeCase s t) (hr : s.rst = false) (hc : decode s.cmd = .idle) (rom : Rom) :
    t.coil rom = s.coil rom := by
  rw [h.unique (.idle hr hc)]
  exact coil_congr rfl rfl rom

/-- One command that reports one event, then `WAIT n`. -/
theorem executes_then_wait {rom : Rom} {i : Instr} {s u : State} {ev : Event} (h : exec i s = .next u)
    (hev : u.events rom = [ev]) (n : Nat) :
    ∃ t, Executes rom s (i :: List.replicate n .idle) [ev] t ∧ t.phase = u.phase := by
  obtain ⟨t, ht, hp, -⟩ := executes_wait rom n u.tick
  exact ⟨t, by simpa [hev] using Executes.cons h ht, hp⟩

/-- An edge that samples no valid STEP energises nothing. -/
theorem not_en_of_edge_not_validStep {s t : State} (h : EdgeCase s t)
    (hc : decode s.cmd ≠ .stepCw ∧ decode s.cmd ≠ .stepCcw) (hs : s.en = false) : t.en = false := by
  cases h with
  | reset | stop => rfl
  | idle | stepInv0 | stepInv2 => exact hs
  | stepCw _ hc' | stepCcw _ hc' => simp [hc'] at hc

/-- Commands that are no valid STEP keep the phase, whatever they report (R11). -/
theorem executes_without_validStep (rom : Rom) {is : List Instr} (h : ∀ i ∈ is, i ≠ .stepCw ∧ i ≠ .stepCcw) (s : State) :
    ∃ evs t, Executes rom s is evs t ∧ t.phase = s.phase := by
  induction is generalizing s with
  | nil => exact ⟨[], s, .nil s, rfl⟩
  | cons i is ih =>
    obtain ⟨⟨hcw, hccw⟩, hrest⟩ := List.forall_mem_cons.1 h
    obtain ⟨u, hu⟩ := exec_total i s
    obtain ⟨hkept, -⟩ := exec_keeps_of_not_validStep hu hcw hccw
    obtain ⟨evs, t, ht, hp⟩ := ih hrest u.tick
    exact ⟨_, t, .cons hu ht, hp.trans hkept⟩

/-- R100: the first valid STEP after commands that do not step emits the entry at the adder's sum of the phase kept so far. -/
theorem first_validStep_emits {d : Delta} (hd : validDirection d = true) (rom : Rom) {before : List Instr}
    (h : ∀ i ∈ before, i ≠ .stepCw ∧ i ≠ .stepCcw) (s : State) (after : List Pins) :
    ∃ t, RunsTo (before.length + 1) (s.schedule (before.map Instr.line ++ (decodeStep d).line :: after)) t ∧
      t.emit = true ∧ t.coil rom = rom.read (phaseAdd s.phase d) := by
  obtain ⟨evs, u, hu, hp⟩ := executes_without_validStep rom h s
  have hrun := (hu.snoc (exec_validStep hd u)).runsTo after
  rw [List.length_append, List.map_append, List.append_assoc] at hrun
  refine ⟨_, hrun, rfl, ?_⟩
  rw [← hp]
  exact emitTable_coil _ u rom

/-- The adder on a `delta` read as an integer (R48, R60). -/
theorem phaseAdd_toNat_int (p : Phase) (d : Delta) : ((phaseAdd p d).toNat : Int) = ((p.toNat : Int) + toInt2 d) % 4 := by
  have hsum := phaseAdd_toNat p d
  have hd : toInt2 d = (d.toNat : Int) ∨ toInt2 d = (d.toNat : Int) - 4 := by
    obtain rfl | rfl | rfl | rfl := delta_cases d
    · exact .inl rfl
    · exact .inl rfl
    · exact .inr rfl
    · exact .inr rfl
  omega

/-- A direction's command is `step` of its `delta`, which is valid. -/
theorem exec_direction (dir : Direction) (s : State) :
    exec dir.instr s = .next (s.emitTable (phaseAdd s.phase (directionDelta dir))) := by
  cases dir with
  | clockwise => exact exec_validStep (d := 0b01#2) rfl s
  | counterClockwise => exact exec_validStep (d := 0b11#2) rfl s

/-- `REV n` with `WAIT k`, by induction on the steps: each emits once and adds its `delta`. -/
theorem executes_rev (rom : Rom) (dir : Direction) (n k : Nat) (s : State) :
    ∃ evs t, Executes rom s (Pseudo.rev dir n k).expand evs t ∧ (evs.filterMap Event.pattern?).length = n ∧
      (t.phase.toNat : Int) = ((s.phase.toNat : Int) + n * toInt2 (directionDelta dir)) % 4 := by
  induction n generalizing s with
  | zero =>
    have hp : s.phase.toNat < 4 := s.phase.isLt
    refine ⟨[], s, .nil s, rfl, ?_⟩
    rw [Nat.cast_zero, zero_mul]
    omega
  | succ n ih =>
    obtain ⟨u, hu, hup⟩ := executes_then_wait (exec_direction dir s) (emitTable_events _ s rom) k
    obtain ⟨evs, t, ht, hlen, hp⟩ := ih u
    refine ⟨_, t, hu.append ht, congrArg (· + 1) hlen, ?_⟩
    rw [hp, hup, State.emitTable_phase, phaseAdd_toNat_int, Int.emod_add_emod]
    congr 1
    push_cast
    ring

theorem rev_expand_length (dir : Direction) (n k : Nat) : (Pseudo.rev dir n k).expand.length = n * (k + 1) := by
  simp [Pseudo.expand]

end Sys2Proof.Machine
end

section
/-! SUPPORT. The registers that programs reach from reset (R24). -/

namespace Sys2Proof.Machine

/-- R24 over a run, by induction on the edges. -/
theorem strobesExclusive_of_runsTo {k : Nat} {s t : State} (hs : StrobesExclusive s) (h : RunsTo k s t) :
    StrobesExclusive t := by
  induction k generalizing s with
  | zero => rwa [runsTo_unique (k := 0) rfl h]
  | succ k ih =>
    obtain ⟨u, hu, hedge⟩ := step_total s
    exact ih (strobesExclusive_of_edgeCase hedge) ((runsTo_succ hu k t).1 h)

/-- Some program takes the reset state to this one. The registers do not read the ROM (R30), so any ROM serves. -/
def Reachable (s : State) : Prop := ∃ is evs, Executes romDefault State.reset is evs s

theorem Reachable.exec {i : Instr} {s u : State} (h : Reachable s) (hexec : exec i s = .next u) : Reachable u.tick := by
  obtain ⟨is, evs, hs⟩ := h
  exact ⟨_, _, hs.snoc hexec⟩

/-- A reachable state's registers are those at the end of a run from reset under some schedule. -/
theorem Reachable.run {s : State} (h : Reachable s) :
    ∃ (ps : List Pins) (k : Nat) (t : State), RunsTo k (State.reset.schedule ps) t ∧ t.registers = s.registers := by
  obtain ⟨is, _, hs⟩ := h
  exact ⟨_, _, _, hs.runsTo [], rfl⟩

/-- `n` steps clockwise from reset. -/
theorem reachable_phase_ofNat (n : Nat) : ∃ s, Reachable s ∧ s.phase = BitVec.ofNat 2 n := by
  induction n with
  | zero => exact ⟨State.reset, ⟨[], [], .nil _⟩, rfl⟩
  | succ n ih =>
    obtain ⟨s, hs, hp⟩ := ih
    refine ⟨_, hs.exec (exec_validStep (d := 0b01#2) rfl s), ?_⟩
    rw [BitVec.ofNat_add, ← hp]
    rfl

theorem reachable_phase (p : Phase) : ∃ s, Reachable s ∧ s.phase = p := by
  obtain ⟨s, hs, hp⟩ := reachable_phase_ofNat p.toNat
  exact ⟨s, hs, by rw [hp, BitVec.ofNat_toNat, BitVec.setWidth_eq]⟩

/-- A step clockwise from the phase before, or STOP at the phase itself. -/
theorem reachable_emission (p : Phase) (en : Bool) : ∃ s, Reachable s ∧ s.registers = (p, en, true, false) := by
  cases en with
  | true =>
    obtain ⟨s, hs, hp⟩ := reachable_phase (p - 1#2)
    refine ⟨_, hs.exec (exec_validStep (d := 0b01#2) rfl s), ?_⟩
    rw [hp, phaseAdd, BitVec.sub_add_cancel]
    rfl
  | false =>
    obtain ⟨s, hs, rfl⟩ := reachable_phase p
    exact ⟨_, hs.exec (i := .stop) rfl, rfl⟩

/-- After an emission, IDLE clears the strobes and an invalid STEP turns them over; both keep `phase` and `en`. -/
theorem reachable_of_exclusive (p : Phase) (en emit err : Bool) (h : ¬(emit = true ∧ err = true)) :
    ∃ s, Reachable s ∧ s.registers = (p, en, emit, err) := by
  obtain ⟨s, hs, hreg⟩ := reachable_emission p en
  have hp : s.phase = p := congrArg (·.1) hreg
  have he : s.en = en := congrArg (·.2.1) hreg
  cases emit with
  | true =>
    cases err with
    | true => exact absurd ⟨rfl, rfl⟩ h
    | false => exact ⟨s, hs, hreg⟩
  | false =>
    cases err with
    | true => exact ⟨_, hs.exec (exec_of_invalid (.inl rfl) s), by simp [State.registers, hp, he]⟩
    | false => exact ⟨_, hs.exec (i := .idle) rfl, by simp [State.registers, hp, he]⟩

end Sys2Proof.Machine
end

section
/-! SUPPORT. The hardware run of a sequence of calls against the source's Sequencer, call by call (95_test_vectors.md section 1). -/

namespace Sys2Proof.Machine

/-- The commands of `callLines`. -/
def callCommands (cs : List (Call × Nat)) : List Instr := cs.flatMap fun c => c.1.instr :: List.replicate c.2 .idle

theorem callLines_eq_map (cs : List (Call × Nat)) : callLines cs = (callCommands cs).map Instr.line := by
  simp [callLines, callCommands, List.map_flatMap]

/-- An emission from the table, read with an integer that is the new phase. -/
theorem emitTable_events_ofInt {p : Phase} {x : Int} (h : (p.toNat : Int) = x) (s : State) (rom : Rom) :
    (s.emitTable p).events rom = [.apply (rom.read (BitVec.ofInt 2 x))] := by
  rw [emitTable_events, ← h, BitVec.ofInt_natCast, BitVec.ofNat_toNat, BitVec.setWidth_eq]

/-- One call: the command's one event and its phase are the Sequencer's (R48, R60, R61, R70, R81). -/
theorem exec_call (rom : Rom) (c : Call) {s : State} {q : Sequencer} (hq : q.index = (s.phase.toNat : Int)) :
    ∃ u, exec c.instr s = .next u ∧ u.events rom = [(sequencerCall rom c q).2] ∧
      (sequencerCall rom c q).1.index = (u.phase.toNat : Int) := by
  cases c with
  | stop => exact ⟨s.emitLow, rfl, emitLow_events s rom, hq⟩
  | step d =>
    by_cases hd : d = 1 ∨ d = -1
    · obtain ⟨p, hexec, hp⟩ := exec_stepInstr_of_direction hd s
      rw [sequencerCall, if_pos hd, hq]
      exact ⟨_, hexec, emitTable_events_ofInt hp s rom, hp.symm⟩
    · obtain ⟨h₁, h₂⟩ := not_or.1 hd
      rw [sequencerCall, if_neg hd]
      exact ⟨_, exec_of_invalid (stepInstr_of_not_direction h₁ h₂) s, raise_events _ s rom, hq⟩

/-- Any calls, each with its IDLE cycles, by induction on the calls. -/
theorem executes_calls (rom : Rom) (cs : List (Call × Nat)) {s : State} {q : Sequencer}
    (hq : q.index = (s.phase.toNat : Int)) :
    ∃ t, Executes rom s (callCommands cs) (sequencerCalls rom (cs.map Prod.fst) q).2 t ∧
      (sequencerCalls rom (cs.map Prod.fst) q).1.index = (t.phase.toNat : Int) := by
  induction cs generalizing s q with
  | nil => exact ⟨s, .nil s, hq⟩
  | cons c cs ih =>
    obtain ⟨u, hexec, hev, hu⟩ := exec_call rom c.1 hq
    obtain ⟨v, hv, hvp⟩ := executes_then_wait hexec hev c.2
    rw [← hvp] at hu
    obtain ⟨t, ht, hend⟩ := ih hu
    exact ⟨t, hv.append ht, hend⟩

end Sys2Proof.Machine
end

section
/-! The statements about programs from their first cycle on (30_encoding.md section 5, 70_reset_and_hazards.md section 2,
10_state.md section 6, 95_test_vectors.md section 1). -/

namespace Sys2Proof.Machine

/-- Settles O47: the run of `executes_wait`, and `phase` and `en` kept by every IDLE edge hold the lines. -/
theorem waitHoldsTheLines : Obligations.WaitHoldsTheLines := by
  intro rom n s after
  obtain ⟨t, ht, hp, he⟩ := executes_wait rom n s
  have hrun := ht.runsTo after
  have htrace := ht.callTrace_eq after
  have hlines := forall_mem_cycles_lines (P := (· = .idle)) (I := fun u => u.coil rom = s.coil rom) (after := after)
    (fun _ _ h hr hi hs => (coil_of_idle_edge h hr hi rom).trans hs)
    (fun _ => List.eq_of_mem_replicate (n := n)) (State.schedule_coil rom _ s)
  rw [List.length_replicate] at hrun htrace hlines
  exact ⟨t.schedule after, hrun, hp, he, rfl, htrace.trans (List.append_nil _), hlines⟩

/-- Settles O48, by `executes_rev`; the start's own emission comes first. -/
theorem revTurnsThePhaseByItsCount : Obligations.RevTurnsThePhaseByItsCount := by
  intro rom dir n k s after
  obtain ⟨evs, t, ht, hlen, hp⟩ := executes_rev rom dir n k s
  have hrun := ht.runsTo after
  have htrace := congrArg List.length (ht.emissionTrace_eq after)
  rw [List.length_append, hlen, Nat.add_comm, apply_ite List.length] at htrace
  rw [rev_expand_length] at hrun htrace
  exact ⟨t.schedule after, hrun, hp, htrace, rfl⟩

/-- Settles O36: `first_validStep_emits` from phase 0, and no command before it energises the coils. -/
theorem firstStepAfterResetEmitsEntryOneOrThree : Obligations.FirstStepAfterResetEmitsEntryOneOrThree := by
  intro rom before after h
  refine ⟨first_validStep_emits (d := 0b01#2) rfl rom h State.reset after,
    first_validStep_emits (d := 0b11#2) rfl rom h State.reset after, fun u hu => State.coil_of_not_en ?_ rom⟩
  exact forall_mem_cycles_lines (I := fun u => u.en = false) (fun _ _ hedge _ hi hs => not_en_of_edge_not_validStep hedge hi hs)
    h rfl u hu

/-- Settles O55: every run from reset keeps R24, and the programs of `reachable_of_exclusive` reach the rest. -/
theorem reachableRegistersAreTheTwentyFour : Obligations.ReachableRegistersAreTheTwentyFour := by
  intro p en emit err
  constructor
  · rintro ⟨ps, k, t, ht, hreg⟩
    cases hreg
    exact strobesExclusive_of_runsTo (s := State.reset.schedule ps) strobesExclusiveAtReset ht
  · intro h
    obtain ⟨s, hs, hreg⟩ := reachable_of_exclusive p en emit err h
    rw [← hreg]
    exact hs.run

/-- Settles O57: the IDLE cycles before the first call by `executes_wait`, the calls by `executes_calls`. -/
theorem hardwareRunsTheSequencersCalls : Obligations.HardwareRunsTheSequencersCalls := by
  rintro rom cs n s q after lines hemit herr hq rfl
  obtain ⟨u, hu, hup, -⟩ := executes_wait rom n s
  rw [← hup] at hq
  obtain ⟨t, ht, hend⟩ := executes_calls rom cs hq
  have hall := hu.append ht
  have hlines : List.replicate n Instr.idle.line ++ callLines cs =
      (List.replicate n Instr.idle ++ callCommands cs).map Instr.line := by
    rw [callLines_eq_map, List.map_append, List.map_replicate]
  have htrace := hall.callTrace_eq after
  rw [(events_eq_nil_iff rom s).2 ⟨hemit, herr⟩] at htrace
  rw [hlines, List.length_map]
  exact ⟨t.schedule after, hall.runsTo after, htrace, hend.symm, rfl⟩

end Sys2Proof.Machine
end
